-- ==== Sys2Proof/Word.lean ====
section
/-! DEFINITION. The widths of the block: 32-bit words (R7), bytes (R71), register-window offsets (R36). -/

namespace Sys2Proof

/-- A 32-bit unsigned word: every register and every arithmetic result of the engine (R7). -/
abbrev Word := BitVec 32

/-- The unit of the ROM buffer (R71). -/
abbrev Byte := BitVec 8

/-- A byte offset inside the host register window of 0x40 bytes (R36, R49). -/
abbrev Offset := BitVec 6

/-- A 128-bit digest (`HASH_BITS`, R8). -/
abbrev Digest := BitVec 128

end Sys2Proof
end

