-- ==== Sys2Proof/Config.lean ====
section
/-! DEFINITION. What is fixed for one block and is no state (R9, R50, R282): the variant set, the Parameter
Table, the hash, the base address; and the free values that an unspecified value of the spec becomes. A constant
declared `opaque` has no body that a proof can see: a claim about it holds whatever it is. -/

namespace Sys2Proof

/-- The closed variant set, in the source's listing order (R15, R106). -/
inductive Variant where
  | v6101
  | v6102_7101
  | v7102
  | x103
  | x105
  | x106
  deriving DecidableEq, Repr, Inhabited

namespace Config

/-- Seed of a variant whose seed the source does not give (R45, U14). Eight bits wide: a seed of 0x100 or more is
outside the source (R46, U15). DESIGN CHOICE of form, safe: log entry 2. -/
opaque seedParam : Variant → BitVec 8

/-- Magic of a variant whose magic the source does not give (R45, U14). Safe: log entry 2. -/
opaque magicParam : Variant → Word

/-- The expected-hash column of the Parameter Table, open for all six variants (R45, D15). Safe: log entry 4. -/
opaque expectedHashOf : Variant → Digest

/-- `HASH128`, the content hash, a configuration function (R204, D14). Safe: log entry 3. -/
opaque hash128 : List Byte → Digest

/-- `CKBASE`, the base address of the register window (R36, R80, U17). Safe: log entry 1. -/
opaque ckbase : Word

/-- The free words: the value drawn at each count of draws, for a value the spec leaves unspecified (R280, R290).
Safe: log entries 6 and 7. -/
opaque freeWord : Nat → Word

/-- The free detector results, drawn for `DETECT` of a run whose buffer the host changed (R290). Safe: log entry 7. -/
opaque freeDetect : Nat → Option Variant

/-- The seed column of the Parameter Table (R45): the source's value for `6102_7101`, open for the others. -/
def seedOf : Variant → Word
  | .v6102_7101 => 0x3F#32
  | v => (seedParam v).setWidth 32

/-- The magic column of the Parameter Table (R45): the source's value for `6102_7101`, open for the others. -/
def magicOf : Variant → Word
  | .v6102_7101 => 0x5D588B65#32
  | v => magicParam v

end Config

end Sys2Proof
end

