-- ==== Sys2Proof/Syntax.lean ====
section
/-! DEFINITION. The nine commands (R105), one constructor per row of spec/opcode_table.json. A command has no operand
that its row does not fix: the other inputs come from registers and the ROM buffer (R102). -/

namespace Sys2Proof

/-- The legal commands of the block (R105). -/
inductive Instr where
  /-- `CHECKSUM.6101` (R170). -/
  | checksum6101
  /-- `CHECKSUM.6102_7101` (R171). -/
  | checksum6102_7101
  /-- `CHECKSUM.7102` (R172). -/
  | checksum7102
  /-- `CHECKSUM.X103` (R173). -/
  | checksumX103
  /-- `CHECKSUM.X105` (R174). -/
  | checksumX105
  /-- `CHECKSUM.X106` (R175). -/
  | checksumX106
  /-- `DETECT_IPL3` (R200). -/
  | detectIpl3
  /-- `DETECT_ROM` (R210). -/
  | detectRom
  /-- `RESOLVE_ALIAS` (R220). -/
  | resolveAlias
  deriving DecidableEq, Repr

end Sys2Proof
end

