-- ==== Sys2Proof/WellFormed.lean ====
section
/-! DEFINITION. The fields of a command word (R100) and the checks a legal command passes (R103, R104, R107), one
named check each. -/

namespace Sys2Proof

/-- The three fields of a command word (R100). -/
structure CommandFields where
  /-- `c[3:0]`, the operation (R101). -/
  op : BitVec 4
  /-- `c[7:4]`, the variant code (R102). -/
  vsel : BitVec 4
  /-- `c[31:8]`, reserved. -/
  rsvd : BitVec 24
  deriving DecidableEq, Repr

/-- `RSVD` must be 0 (R103). -/
def CommandFields.rsvdZero (f : CommandFields) : Bool := f.rsvd == 0

/-- `OP` names an operation: 1 to 4 (R101). -/
def CommandFields.opAssigned (f : CommandFields) : Bool :=
  f.op == 1 || f.op == 2 || f.op == 3 || f.op == 4

/-- `VSEL` must be 0 when `OP` is not `CHECKSUM` (R103). -/
def CommandFields.vselZeroUnlessChecksum (f : CommandFields) : Bool := f.op == 1 || f.vsel == 0

/-- The `VSEL` of a `CHECKSUM` names a variant: codes 0 to 5 (R106, R107). -/
def CommandFields.vselNamesVariant (f : CommandFields) : Bool := f.op != 1 || f.vsel.ule 5

/-- A legal command word's fields (R104, R105). -/
def CommandFields.wellFormed (f : CommandFields) : Bool :=
  f.rsvdZero && f.opAssigned && f.vselZeroUnlessChecksum && f.vselNamesVariant

end Sys2Proof
end

