-- ==== Sys2Proof/Decode.lean ====
section
/-! DEFINITION. Decoding of a command word (R104), total on every 32-bit word and rejecting by name, and the encoder
(R105). -/

namespace Sys2Proof

/-- The code of a variant (R106). -/
def variantCode : Variant → BitVec 4
  | .v6101 => 0
  | .v6102_7101 => 1
  | .v7102 => 2
  | .x103 => 3
  | .x105 => 4
  | .x106 => 5

/-- The variant of a code: codes 6 to 15 name none (R106, R107). -/
def variantOfCode (k : BitVec 4) : Option Variant :=
  if k = 0 then some .v6101
  else if k = 1 then some .v6102_7101
  else if k = 2 then some .v7102
  else if k = 3 then some .x103
  else if k = 4 then some .x105
  else if k = 5 then some .x106
  else none

/-- The `CHECKSUM` command of a variant (R105). -/
def checksumOf : Variant → Instr
  | .v6101 => .checksum6101
  | .v6102_7101 => .checksum6102_7101
  | .v7102 => .checksum7102
  | .x103 => .checksumX103
  | .x105 => .checksumX105
  | .x106 => .checksumX106

/-- What a command word decodes to: exactly one of three outcomes (R104). -/
inductive Decoded where
  /-- One of the nine legal commands. -/
  | legal (i : Instr)
  /-- A reserved bit, a reserved operation, or a variant code where none belongs (R103, R245). -/
  | illegalCommand
  /-- A `CHECKSUM` whose code names no variant (R107, R244). -/
  | unrecognizedVariant
  deriving DecidableEq, Repr

/-- The fields of a command word (R100). -/
def fieldsOfWord (c : Word) : CommandFields :=
  { op := c.extractLsb' 0 4, vsel := c.extractLsb' 4 4, rsvd := c.extractLsb' 8 24 }

/-- Decoding (R104): the order of the tests fixes the error reported when a word breaks several rules (R248). -/
def decode (c : Word) : Decoded :=
  let f := fieldsOfWord c
  if f.rsvd ≠ 0 then .illegalCommand
  else if f.op = 1 then
    match variantOfCode f.vsel with
    | some v => .legal (checksumOf v)
    | none => .unrecognizedVariant
  else if f.op = 2 then
    if f.vsel ≠ 0 then .illegalCommand else .legal .detectIpl3
  else if f.op = 3 then
    if f.vsel ≠ 0 then .illegalCommand else .legal .detectRom
  else if f.op = 4 then
    if f.vsel ≠ 0 then .illegalCommand else .legal .resolveAlias
  else .illegalCommand

/-- The `OP` code of a command (R101). -/
def opOf : Instr → BitVec 4
  | .checksum6101 => 1
  | .checksum6102_7101 => 1
  | .checksum7102 => 1
  | .checksumX103 => 1
  | .checksumX105 => 1
  | .checksumX106 => 1
  | .detectIpl3 => 2
  | .detectRom => 3
  | .resolveAlias => 4

/-- The `VSEL` code of a command (R102, R106). -/
def vselOf : Instr → BitVec 4
  | .checksum6101 => 0
  | .checksum6102_7101 => 1
  | .checksum7102 => 2
  | .checksumX103 => 3
  | .checksumX105 => 4
  | .checksumX106 => 5
  | .detectIpl3 => 0
  | .detectRom => 0
  | .resolveAlias => 0

/-- The fields of a command's word (R100 to R103). -/
def fieldsOf (i : Instr) : CommandFields := { op := opOf i, vsel := vselOf i, rsvd := 0 }

/-- A command is well formed when its word's fields pass every check. -/
def instrWellFormed (i : Instr) : Bool := (fieldsOf i).wellFormed

/-- A command word laid out from its fields (R100). -/
def wordOfFields (f : CommandFields) : Word := f.rsvd ++ f.vsel ++ f.op

/-- The word of a command (R105). -/
def encode (i : Instr) : Word := wordOfFields (fieldsOf i)

/-- The command the decoder reads from the bits that spec/opcode_table.json gives a row: a command is one 32-bit
word (R100, R109), bits above `nbits` zero. -/
def decodeTableWord (nbits w : Nat) : Option Instr :=
  match decode (BitVec.ofNat 32 (w % 2 ^ nbits)) with
  | .legal i => some i
  | .illegalCommand => none
  | .unrecognizedVariant => none

end Sys2Proof
end

