-- ==== Sys2Proof/Machine/State.lean ====
section
/-! DEFINITION. The state of one block with its ROM buffer and its host (R30, R50, R70), as plain data; the reasons a
step can stop; the state after reset (R280). -/

namespace Sys2Proof.Machine

/-- The sequencer's phases (R34). -/
inductive Phase where
  | idle
  | ckInit
  | ckLoop
  | ckFinal
  | detHash
  | alMap
  | done
  | error
  deriving DecidableEq, Repr

/-- The codes of `ERRCODE` (R39, R242). -/
inductive ErrCode where
  | noError
  | bufferTooSmall
  | unrecognizedVariant
  | illegalCommand
  deriving DecidableEq, Repr

/-- The width of a host bus access. Only `w32` is defined (R77). The spec speaks of another width (R261) and names none:
that a host issues accesses of 8, 16, 32 and 64 bits and no others is a DESIGN CHOICE, unsafe (log entry 31). -/
inductive Width where
  | w8
  | w16
  | w32
  | w64
  deriving DecidableEq, Repr

/-- One turn of the host agent (R30, R117, R118, R260). -/
inductive HostAction where
  /-- A write of the register at a window offset (`wr REG, imm32`, R117). -/
  | write (off : Offset) (width : Width) (data : Word)
  /-- A read of the register at a window offset (`rd REG`, R117). -/
  | read (off : Offset) (width : Width)
  /-- A write at an absolute bus address (`CKBASE + offset`, R36, R77). -/
  | busWrite (addr : Word) (width : Width) (data : Word)
  /-- A read at an absolute bus address (R36, R77). -/
  | busRead (addr : Word) (width : Width)
  /-- The host writes one byte of the ROM buffer (R260). -/
  | romByte (off : Word) (b : Byte)
  /-- The host writes one big-endian word into the ROM buffer (`rom.w32`, R117). -/
  | romWord (off : Word) (w : Word)
  /-- The host loads a whole image (`rom.fill`, R117): `size` bytes, those listed as listed, the others zero. -/
  | romFill (size : Nat) (image : List Host.Cell)
  /-- The reset input is asserted (R280, R281). -/
  | reset
  /-- The `wait` loop (R118): read `STATUS` and stay here while it says `BUSY`. -/
  | wait
  /-- The host does nothing this turn; the block moves (R295). -/
  | idle
  deriving DecidableEq, Repr

/-- The ROM buffer's bytes as (offset, byte) pairs (R70, R71): offsets strictly rising, no pair with the byte that an
unlisted offset reads as (0: log entry 9). -/
abbrev Memory := List Host.Cell

/-- The state (R50). INVENTORY.md lists every field with its rule and its reset value. -/
structure State where
  /-- `PHASE` (R34). -/
  phase : Phase
  /-- Running sum of the words read (R31, R16). -/
  a3 : Word
  /-- Count of the carries out of the `a3` addition. -/
  t2 : Word
  /-- Running XOR of the words read. -/
  t3 : Word
  /-- Running sum of the rotated words. -/
  s0 : Word
  /-- Branch-selected mix. -/
  a2 : Word
  /-- Running sum of the tail feed. -/
  t4 : Word
  /-- The entrypoint word (R32). -/
  ep : Word
  /-- The entrypoint plus the variant's offset (R32). -/
  epr : Word
  /-- Bytes consumed so far (R32). -/
  t0 : Word
  /-- The read cursor, a virtual address (R32). -/
  t1 : Word
  /-- The second-stream pointer of `X105` (R32). -/
  s6 : Word
  /-- `OPL`, the latched operation, as its `OP` code (R33, R101). -/
  opl : BitVec 4
  /-- `VL`, the latched variant code (R33). -/
  vl : BitVec 4
  /-- `LENL`, the latched length (R33). -/
  lenl : Word
  /-- `ERRCODE.CODE` (R39). -/
  errcode : ErrCode
  /-- `ROM_LEN` (R40). -/
  romLen : Word
  /-- `RESULT0` (R41). -/
  result0 : Word
  /-- `RESULT1` (R41). -/
  result1 : Word
  /-- `DETECT` (R42). -/
  detect : Word
  /-- `ALIAS` (R43). -/
  aliasReg : Word
  /-- The ROM buffer's contents (R70). -/
  rom : Memory
  /-- How many bytes of storage are connected to the ROM port (U11). -/
  romStorage : Nat
  /-- The host's pending turns, oldest first (the model's own: log entry 11). -/
  script : List HostAction
  /-- The word the last host read returned (the model's own: log entry 17). -/
  rdata : Word
  /-- The host has changed a byte of this run's buffer `ROM[0 .. LENL-1]` (R70, R290; the model's own: log entry 7). -/
  tainted : Bool
  /-- How many free values have been drawn (the model's own: log entry 8). -/
  draws : Nat
  deriving DecidableEq, Repr

/-- Why the machine stops with a fault. -/
inductive Fault where
  /-- Raised by a ROM read (`romCheck`) outside `ROM[0 .. LENL-1]`, and by a translated read (`memReadStream`) outside
  the 0x101000-byte window: unreachable under the rules, and a model that meets one must fault (R75, U4, N8). Safe. -/
  | romOutsideBuffer
  /-- Raised by a block turn in a busy phase whose latched `OPL` and `VL` name no operation or one without that
  phase: no rule leads there (log entry 14). Safe. -/
  | sequencerState
  deriving DecidableEq, Repr

/-- Why the model gives a step no meaning. -/
inductive Refusal where
  /-- Raised by an arm of `exec` that has no meaning yet. Safe. -/
  | notModelled (mnemonic : String)
  /-- Raised by a host access with a byte in the register window that is not 32 bits wide (R77, R261, U2). Safe. -/
  | accessWidth
  /-- Raised by a 32-bit host access with a byte in the register window whose offset is no multiple of 4 (R77, R261,
  U2). Safe. -/
  | accessAlignment
  /-- Raised by a read inside `LENL`, or a host write, of a ROM byte beyond the storage connected to the ROM port: the
  platform is outside the spec (U11). Safe. -/
  | romNotConnected
  deriving DecidableEq, Repr

/-- The state right after reset (R280): `PHASE` is `IDLE`, every host register 0. The spec leaves the hidden registers
unspecified; here they are 0 (DESIGN CHOICE, unsafe: log entry 5). Nothing is placed in the ROM buffer (log entries 9,
10) and the host has no pending turn (log entry 11). -/
def State.reset : State where
  phase := .idle
  a3 := 0
  t2 := 0
  t3 := 0
  s0 := 0
  a2 := 0
  t4 := 0
  ep := 0
  epr := 0
  t0 := 0
  t1 := 0
  s6 := 0
  opl := 0
  vl := 0
  lenl := 0
  errcode := .noError
  romLen := 0
  result0 := 0
  result1 := 0
  detect := 0
  aliasReg := 0
  rom := []
  romStorage := 2 ^ 32
  script := []
  rdata := 0
  tainted := false
  draws := 0

end Sys2Proof.Machine
end

