-- ==== Sys2Proof/Machine/Operands.lean ====
section
/-! DEFINITION. The values a rule forms from its operands: fixed sizes (R8), rotation (R11), big-endian words (R72), the
two address translations (R78, R79), the entrypoint offsets (R48), the alias table (R110), the bus address of a
register (R36). -/

namespace Sys2Proof.Machine

/-- `CK_MIN_LEN` (R8). -/
def ckMinLen : Word := 0x101000

/-- `CK_BYTES` (R8). -/
def ckBytes : Word := 0x100000

/-- `CK_BASE` (R8). -/
def ckStreamBase : Word := 0x1000

/-- `EP_OFF`, a byte offset (R8, C3). -/
def epOff : Word := 8

/-- `IPL3_OFF` (R8). -/
def ipl3Off : Word := 0x40

/-- `IPL3_HASH_LEN`, in bytes (R8). -/
def ipl3HashLen : Nat := 0xFC0

/-- The minimum length of an isolated blob (R200). -/
def detIpl3MinLen : Word := 0xFC0

/-- `DET_ROM_MIN_LEN` (R8). -/
def detRomMinLen : Word := 0x1000

/-- `X105_PTR0` (R8, R144). -/
def x105Ptr0 : Word := 0xA0000200

/-- `X105_RAM_BASE` (R8). -/
def x105RamBase : Word := 0xA0000004

/-- `X105_ROM_BASE` (R8). -/
def x105RomBase : Word := 0x000554

/-- `X105_MASK` (R8). -/
def x105Mask : Word := 0xA00002FF

/-- Rotate left (R11): a shift by 32 gives 0 (D18), so a rotation by 0 gives the word. -/
def rotl32 (w : Word) (s : Nat) : Word := (w <<< s) ||| (w >>> (32 - s))

/-- The rotated word of step c (R152): the amount is the word's own low five bits. -/
def mixedOf (w : Word) : Word := rotl32 w (w &&& 0x1F).toNat

/-- Four bytes as a big-endian word (R72). -/
def bigEndian (b0 b1 b2 b3 : Byte) : Word :=
  (b0.setWidth 32 <<< 24) ||| (b1.setWidth 32 <<< 16) ||| (b2.setWidth 32 <<< 8) ||| b3.setWidth 32

/-- The `k`-th byte of a big-endian word, `k` from 0 for the most significant (R72). -/
def byteOfWord (w : Word) (k : Nat) : Byte := (w >>> (8 * (3 - k))).setWidth 8

/-- Main-stream translation (R78). -/
def romOffMain (epr addr : Word) : Word := addr - epr + ckStreamBase

/-- Second-stream translation (R79). -/
def romOffX105 (p : Word) : Word := p - x105RamBase + x105RomBase

/-- The second-stream pointer after one iteration: add, then mask (R156, D16). -/
def x105Next (p : Word) : Word := (p + 4) &&& x105Mask

/-- The per-variant entrypoint offset, modulo 2^32 (R48). -/
def epAdj : Variant → Word
  | .x103 => 0xFFF00000
  | .x106 => 0xFFE00000
  | .v6101 => 0
  | .v6102_7101 => 0
  | .v7102 => 0
  | .x105 => 0

/-- The common start value of the six working registers (R143). -/
def acc0 (v : Variant) : Word := Config.seedOf v * Config.magicOf v + 1

/-- The alias table (R110, R114): ten CIC numbers, every other unrecognised (R115). -/
def aliasOf (n : Word) : Option Variant :=
  if n = 6101 then some .v6101
  else if n = 6102 then some .v6102_7101
  else if n = 7101 then some .v6102_7101
  else if n = 7102 then some .v7102
  else if n = 6103 then some .x103
  else if n = 7103 then some .x103
  else if n = 6105 then some .x105
  else if n = 7105 then some .x105
  else if n = 6106 then some .x106
  else if n = 7106 then some .x106
  else none

/-- The variants in code order, the detector's search order (R106, R203). -/
def variantsInOrder : List Variant := [.v6101, .v6102_7101, .v7102, .x103, .x105, .x106]

/-- The first variant in code order whose expected hash is `h` (R203). -/
def firstMatch (expected : Variant → Digest) (h : Digest) : Option Variant :=
  variantsInOrder.find? fun v => expected v == h

/-- `word0` of the combiner (R160, R161, R162). -/
def combine0 (v : Variant) (a3 t2 t3 : Word) : Word :=
  match v with
  | .x103 => (a3 ^^^ t2) + t3
  | .x106 => a3 * t2 + t3
  | .v6101 => a3 ^^^ t2 ^^^ t3
  | .v6102_7101 => a3 ^^^ t2 ^^^ t3
  | .v7102 => a3 ^^^ t2 ^^^ t3
  | .x105 => a3 ^^^ t2 ^^^ t3

/-- `word1` of the combiner (R160, R161, R162). -/
def combine1 (v : Variant) (s0 a2 t4 : Word) : Word :=
  match v with
  | .x103 => (s0 ^^^ a2) + t4
  | .x106 => s0 * a2 + t4
  | .v6101 => s0 ^^^ a2 ^^^ t4
  | .v6102_7101 => s0 ^^^ a2 ^^^ t4
  | .v7102 => s0 ^^^ a2 ^^^ t4
  | .x105 => s0 ^^^ a2 ^^^ t4

/-- The bus address of a register-window offset (R36, R77). -/
def busAddress (off : Offset) : Word := Config.ckbase + off.setWidth 32

/-- The bytes of an access (R77), one count for each width of the model's choice (log entry 31). -/
def accessBytes : Width → Nat
  | .w8 => 1
  | .w16 => 2
  | .w32 => 4
  | .w64 => 8

/-- The window offset at which an access starts: an address outside the 0x40 bytes at `CKBASE` is the start of no
register of the block (R36, R49; log entry 1). An access that starts below the window and reaches into it is not judged
here but by `reachesWindow`. -/
def windowOffset (addr : Word) : Option Offset :=
  if addr - Config.ckbase < 0x40 then some ((addr - Config.ckbase).setWidth 6) else none

/-- An access starting at `addr` reaches `CKBASE` with a byte after its first: it starts fewer bytes below the window
than it is wide, modulo 2^32 (R36, R77; log entries 1 and 26). -/
def reachesWindow (addr : Word) (width : Width) : Bool :=
  decide (0 < (Config.ckbase - addr).toNat ∧ (Config.ckbase - addr).toNat < accessBytes width)

end Sys2Proof.Machine
end

