-- ==== Sys2Proof/Machine/Flags.lean ====
section
/-! DEFINITION. The one-bit conditions of an iteration (R35, R151, R153) and the words a host reads the status fields
as (R38, R39, R42). -/

namespace Sys2Proof.Machine

/-- Unsigned comparison (R11). -/
def ltu (a b : Word) : Bool := a.ult b

/-- `carry` of step b: the wrapped sum against the pre-add value (R151). -/
def carryOf (a3 w : Word) : Bool := ltu (a3 + w) a3

/-- `take` of step d: the old mix against the word read; equality does not take (R153). -/
def takeOf (a2 w : Word) : Bool := ltu a2 w

/-- The busy phases, those in which a step of the block is enabled (R34, R38). -/
def Phase.isBusy : Phase → Bool
  | .idle => false
  | .ckInit => true
  | .ckLoop => true
  | .ckFinal => true
  | .detHash => true
  | .alMap => true
  | .done => false
  | .error => false

/-- `STATUS`, a function of `PHASE` and nothing else (R38). -/
def statusWord : Phase → Word
  | .idle => 0
  | .ckInit => 1
  | .ckLoop => 1
  | .ckFinal => 1
  | .detHash => 1
  | .alMap => 1
  | .done => 2
  | .error => 3

/-- The level signal a platform may wire: `STATE` in `DONE`, `ERROR` (R247). -/
def completionLevel : Phase → Bool
  | .idle => false
  | .ckInit => false
  | .ckLoop => false
  | .ckFinal => false
  | .detHash => false
  | .alMap => false
  | .done => true
  | .error => true

/-- `ERRCODE` as the host reads it (R39, R241). -/
def errWord : ErrCode → Word
  | .noError => 0
  | .bufferTooSmall => 1
  | .unrecognizedVariant => 2
  | .illegalCommand => 3

/-- `DETECT` for a detector result (R42, R202): `MATCH` in bit 8, the code in bits 3 to 0. -/
def detectWord : Option Variant → Word
  | none => 0
  | some v => (1#32 <<< 8) ||| (variantCode v).setWidth 32

end Sys2Proof.Machine
end

