-- ==== Sys2Proof/Machine/Ops.lean ====
section
/-! DEFINITION. The named operations over the ROM buffer, the registers and a run: reading and writing bytes, accepting a
command (R240), raising an error (R241), ending a run, reset (R280, R281). -/

namespace Sys2Proof.Machine

/-- A computation that answers a value, a fault or a refusal. -/
abbrev Result (α : Type) := Host.Outcome α Fault Refusal

/-- Go on with the value, or stop as the first computation stopped. -/
def andThen {α β : Type} (o : Result α) (f : α → Result β) : Result β :=
  match o with
  | .next a => f a
  | .fault r => .fault r
  | .refused r => .refused r

/-- The value a computation answers, if it answers one. -/
def nextOf? {α : Type} (o : Result α) : Option α :=
  match o with
  | .next a => some a
  | .fault _ => none
  | .refused _ => none

/-! ### The ROM buffer (R70 to R77) -/

/-- The byte at an offset; an offset not listed reads 0 (DESIGN CHOICE, unsafe: log entry 9). -/
def Memory.read : Memory → Nat → Byte
  | [], _ => 0
  | (k, v) :: rest, a => if a = k then v else Memory.read rest a

/-- Write one byte, keeping the canonical form. -/
def Memory.write : Memory → Nat → Byte → Memory
  | [], a, b => if b = 0 then [] else [(a, b)]
  | (k, v) :: rest, a, b =>
    if a < k then
      if b = 0 then (k, v) :: rest else (a, b) :: (k, v) :: rest
    else if a = k then
      if b = 0 then rest else (a, b) :: rest
    else (k, v) :: Memory.write rest a b

/-- The canonical form: offsets strictly rising, no byte that an unlisted offset reads as. -/
abbrev Memory.wf (m : Memory) : Prop :=
  m.Pairwise (fun c d => c.1 < d.1) ∧ ∀ c ∈ m, c.2 ≠ 0

/-- The contents of an image of `size` bytes given by a list of cells; cells outside the image are not part of it
(log entry 28). -/
def Memory.ofImage (size : Nat) (image : List Host.Cell) : Memory :=
  image.foldl (fun m c => if c.1 < size then m.write c.1 c.2 else m) []

/-- Write one big-endian word (R72, `rom.w32` of R117). -/
def Memory.writeWord (m : Memory) (a : Nat) (w : Word) : Memory :=
  (((m.write a (byteOfWord w 0)).write (a + 1) (byteOfWord w 1)).write (a + 2) (byteOfWord w 2)).write (a + 3)
    (byteOfWord w 3)

/-- The big-endian word at an offset (R72). -/
def Memory.word (m : Memory) (a : Nat) : Word :=
  bigEndian (m.read a) (m.read (a + 1)) (m.read (a + 2)) (m.read (a + 3))

/-- The byte string `Bytes(off, n)` (R13). -/
def Memory.bytes (m : Memory) (a n : Nat) : List Byte := (List.range n).map fun k => m.read (a + k)

/-- A read of `n` bytes at `off` must lie inside `ROM[0 .. LENL-1]` (R75, U4: a model that meets one outside must
fault), and the bytes must be connected (U11: refuse; log entry 10). -/
def romCheck (off : Word) (n : Nat) (s : State) : Result Unit :=
  if s.lenl.toNat < off.toNat + n then .fault .romOutsideBuffer
  else if s.romStorage < off.toNat + n then .refused .romNotConnected
  else .next ()

/-- `MemRead32` (R13, R72). -/
def memRead32 (off : Word) (s : State) : Result Word :=
  andThen (romCheck off 4 s) fun _ => .next (s.rom.word off.toNat)

/-- A read at a translated address (R78, R79): one whose word does not lie inside the 0x101000-byte window faults, however
long the buffer is (R75, U4, N8; log entry 30), and any other is `MemRead32`. -/
def memReadStream (off : Word) (s : State) : Result Word :=
  if ckMinLen.toNat < off.toNat + 4 then .fault .romOutsideBuffer else memRead32 off s

/-- `Bytes` (R13): the detector's read of a byte string (R73). -/
def memReadBytes (off : Word) (n : Nat) (s : State) : Result (List Byte) :=
  andThen (romCheck off n s) fun _ => .next (s.rom.bytes off.toNat n)

/-! ### Registers -/

/-- `STATE = BUSY` (R38). -/
def State.busy (s : State) : Bool := s.phase.isBusy

/-- What a host read of a window offset returns (R36 to R44): `CMD` and the reserved offsets read 0. -/
def readReg (off : Offset) (s : State) : Word :=
  if off = 0x04 then statusWord s.phase
  else if off = 0x08 then errWord s.errcode
  else if off = 0x0C then s.romLen
  else if off = 0x10 then s.result0
  else if off = 0x14 then s.result1
  else if off = 0x18 then s.detect
  else if off = 0x1C then s.aliasReg
  else 0

/-- A host write of `ROM_LEN`: ignored while `BUSY` (R40). -/
def writeRomLen (d : Word) (s : State) : State := if s.busy then s else { s with romLen := d }

/-- A host write of `ALIAS`: ignored while `BUSY` (R43). -/
def writeAlias (d : Word) (s : State) : State := if s.busy then s else { s with aliasReg := d }

/-! ### A run: acceptance, errors, end (R240, R241, R290) -/

/-- The first statements of acceptance, common to every command word (R240): results cleared, `LENL` latched. The new
run's buffer is unchanged so far. -/
def beginCommand (s : State) : State :=
  { s with
    result0 := 0, result1 := 0, detect := 0, errcode := .noError, lenl := s.romLen, tainted := false }

/-- Acceptance of a `CHECKSUM` (R240). -/
def latchChecksum (v : Variant) (s : State) : State :=
  { s with opl := 1, vl := variantCode v, phase := .ckInit }

/-- Acceptance of a `DETECT_IPL3` (R240). -/
def latchDetectIpl3 (s : State) : State := { s with opl := 2, phase := .detHash }

/-- Acceptance of a `DETECT_ROM` (R240). -/
def latchDetectRom (s : State) : State := { s with opl := 3, phase := .detHash }

/-- Acceptance of a `RESOLVE_ALIAS` (R240). -/
def latchResolveAlias (s : State) : State := { s with opl := 4, phase := .alMap }

/-- The command a run is executing, from its latched copies `OPL` and `VL` (R33). -/
def latchedInstr (opl vl : BitVec 4) : Option Instr :=
  if opl = 1 then (variantOfCode vl).map checksumOf
  else if opl = 2 then some .detectIpl3
  else if opl = 3 then some .detectRom
  else if opl = 4 then some .resolveAlias
  else none

/-- The latched command of a state. -/
def State.latched (s : State) : Option Instr := latchedInstr s.opl s.vl

/-- The end of a run. Where the host changed the ROM buffer during it, `RESULT0`, `RESULT1` and `DETECT` are free values
(R290, U1), whatever the run wrote; otherwise they stay as written. A drawn `DETECT` is one the register can hold
(R42, R44, R107; DEDUCED: log entry 7). -/
def endRun (s : State) : State :=
  { s with
    result0 := if s.tainted then Config.freeWord s.draws else s.result0
    result1 := if s.tainted then Config.freeWord (s.draws + 1) else s.result1
    detect := if s.tainted then detectWord (Config.freeDetect (s.draws + 2)) else s.detect
    draws := if s.tainted then s.draws + 3 else s.draws }

/-- `raise E` (R241): the one way a command ends in an error. -/
def raiseError (e : ErrCode) (s : State) : State := endRun { s with errcode := e, phase := .error }

/-- The last statements of a checksum run (R164). -/
def writeResults (w0 w1 : Word) (s : State) : State :=
  endRun { s with result0 := w0, result1 := w1, errcode := .noError, phase := .done }

/-- The last statements of a detector or resolver run (R202, R212, R221). -/
def writeDetect (m : Option Variant) (s : State) : State :=
  endRun { s with detect := detectWord m, errcode := .noError, phase := .done }

/-- One transition of a command. With no run in progress it is accepted (R240). With its own run in progress it makes
that run's next step (R34). With another command's run in progress nothing happens (R240, R291). A host write of `CMD`
while `BUSY` never comes here (`writeCmd`). Log entry 13. -/
def runCommand (i : Instr) (latch : State → State) (advance : State → Result State) (s : State) : Result State :=
  if s.busy then
    if s.latched = some i then advance s else .next s
  else .next (latch (beginCommand s))

/-! ### Reset (R280, R281) -/

/-- The reset input is asserted, in any phase: a run in progress is abandoned with no results (R281). Host registers are
0; the hidden registers are unspecified, so each takes a free value (R280, U3; log entry 6). The ROM buffer, the host's
turns and the host's last read are not the block's. -/
def resetBlock (s : State) : State :=
  { s with
    phase := .idle, errcode := .noError, romLen := 0, result0 := 0, result1 := 0, detect := 0, aliasReg := 0
    a3 := Config.freeWord s.draws
    t2 := Config.freeWord (s.draws + 1)
    t3 := Config.freeWord (s.draws + 2)
    s0 := Config.freeWord (s.draws + 3)
    a2 := Config.freeWord (s.draws + 4)
    t4 := Config.freeWord (s.draws + 5)
    ep := Config.freeWord (s.draws + 6)
    epr := Config.freeWord (s.draws + 7)
    t0 := Config.freeWord (s.draws + 8)
    t1 := Config.freeWord (s.draws + 9)
    s6 := Config.freeWord (s.draws + 10)
    opl := (Config.freeWord (s.draws + 11)).setWidth 4
    vl := (Config.freeWord (s.draws + 12)).setWidth 4
    lenl := Config.freeWord (s.draws + 13)
    tainted := false
    draws := s.draws + 14 }

/-! ### The host's changes of the ROM buffer (R260, R290) -/

/-- The bytes of the first `n` offsets, in canonical form. -/
def Memory.within (m : Memory) (n : Nat) : Memory := m.filter fun c => decide (c.1 < n)

/-- New contents `m` on a storage of `storage` bytes change the buffer of the run in progress: one of the bytes
`ROM[0 .. LENL-1]` (R70, R290, U11), or how many of them are connected (log entry 29). What stands at or beyond `LENL`
is no byte of the buffer. -/
def changesBuffer (m : Memory) (storage : Nat) (s : State) : Bool :=
  m.within s.lenl.toNat != s.rom.within s.lenl.toNat ||
    min storage s.lenl.toNat != min s.romStorage s.lenl.toNat

/-- The host gives the ROM port new contents. Changing the buffer of a run while `BUSY` makes the results of that run
free (R290); writing what is already there (log entry 24), or beyond the buffer (R70), changes nothing of the run. -/
def setRom (m : Memory) (storage : Nat) (s : State) : State :=
  { s with
    rom := m
    romStorage := storage
    tainted := s.tainted || (s.busy && changesBuffer m storage s) }

/-- The host writes one byte (R260); one beyond the storage connected is no byte of the buffer (log entry 25). -/
def hostRomByte (off : Word) (b : Byte) (s : State) : Result State :=
  if s.romStorage < off.toNat + 1 then .refused .romNotConnected
  else .next (setRom (s.rom.write off.toNat b) s.romStorage s)

/-- The host writes one big-endian word (`rom.w32`, R117). -/
def hostRomWord (off : Word) (w : Word) (s : State) : Result State :=
  if s.romStorage < off.toNat + 4 then .refused .romNotConnected
  else .next (setRom (s.rom.writeWord off.toNat w) s.romStorage s)

/-- The host loads an image of `size` bytes (`rom.fill`, R117). While `BUSY` an image shorter than `LENL` takes bytes of
the run's buffer away: the run is marked, its later reads below `size` go on, and a read beyond is refused as U11 has it,
not answered with a value so that the run could end as R290 has it (DESIGN CHOICE, safe: log entry 29). -/
def hostRomFill (size : Nat) (image : List Host.Cell) (s : State) : State :=
  setRom (Memory.ofImage size image) size s

/-- The patch operation on a buffer's contents (R262; the host's, not a function of the block). -/
def Memory.patch (m : Memory) (w0 w1 : Word) : Memory := (m.writeWord 0x10 w0).writeWord 0x14 w1

end Sys2Proof.Machine
end

