-- ==== Sys2Proof/Machine/Checksum.lean ====
section
/-! DEFINITION. The checksum engine (40_checksum_engine.md): the three kinds of step of a `CHECKSUM` run, and the meaning
of the six commands. -/

namespace Sys2Proof.Machine

/-! ### CK_INIT (R141 to R144) -/

/-- What `CK_INIT` writes once the entrypoint word `e` is read (R142, R143, R144). -/
def seedRegisters (v : Variant) (e : Word) (s : State) : State :=
  { s with
    ep := e
    epr := e + epAdj v
    a3 := acc0 v, t2 := acc0 v, t3 := acc0 v, s0 := acc0 v, a2 := acc0 v, t4 := acc0 v
    t0 := 0
    t1 := e + epAdj v
    s6 := if v = .x105 then x105Ptr0 else s.s6
    phase := .ckLoop }

/-- The `CK_INIT` step: the length check first, then the entrypoint (R141, R142). -/
def ckInit (v : Variant) (s : State) : Result State :=
  if s.lenl < ckMinLen then .next (raiseError .bufferTooSmall s)
  else andThen (memRead32 epOff s) fun e => .next (seedRegisters v e s)

/-! ### CK_LOOP (R150 to R158) -/

/-- Steps b to e on the word read (R151 to R154). -/
def mixRegisters (w : Word) (s : State) : State :=
  let candidate := s.a3 + w
  let mixed := mixedOf w
  { s with
    t2 := if carryOf s.a3 w then s.t2 + 1 else s.t2
    a2 := if takeOf s.a2 w then (candidate ^^^ w) ^^^ s.a2 else s.a2 ^^^ mixed
    a3 := candidate
    t3 := s.t3 ^^^ w
    s0 := s.s0 + mixed }

/-- The advance of the second stream's pointer (R156). -/
def advanceX105 (s : State) : State := { s with s6 := x105Next s.s6 }

/-- Step f with its feed, and the loop's end test after the body (R157, R158). -/
def feedAndAdvance (feed : Word) (s : State) : State :=
  { s with
    t4 := s.t4 + feed
    t0 := s.t0 + 4
    t1 := s.t1 + 4
    phase := if s.t0 + 4 = ckBytes then .ckFinal else .ckLoop }

/-- One iteration with the default feed, `w ^ s0` with `s0` as step e wrote it (R155). -/
def iterateDefault (w : Word) (s : State) : State :=
  feedAndAdvance (w ^^^ (mixRegisters w s).s0) (mixRegisters w s)

/-- One iteration with the `X105` feed, `w ^ x` (R156). -/
def iterateX105 (w x : Word) (s : State) : State :=
  feedAndAdvance (w ^^^ x) (advanceX105 (mixRegisters w s))

/-- The `CK_LOOP` step: the main-stream word first (R150), then for `X105` the second-stream word at the pointer's value
before its advance (R156). -/
def ckLoop (v : Variant) (s : State) : Result State :=
  andThen (memReadStream (romOffMain s.epr s.t1) s) fun w =>
    if v = .x105 then
      andThen (memReadStream (romOffX105 s.s6) s) fun x => .next (iterateX105 w x s)
    else .next (iterateDefault w s)

/-! ### CK_FINAL (R160 to R164) -/

/-- The `CK_FINAL` step. -/
def ckFinal (v : Variant) (s : State) : Result State :=
  .next (writeResults (combine0 v s.a3 s.t2 s.t3) (combine1 v s.s0 s.a2 s.t4) s)

/-! ### The run and the commands -/

/-- The next step of a `CHECKSUM` run (R34, R140). -/
def checksumStep (v : Variant) (s : State) : Result State :=
  match s.phase with
  | .ckInit => ckInit v s
  | .ckLoop => ckLoop v s
  | .ckFinal => ckFinal v s
  | .idle => .fault .sequencerState
  | .detHash => .fault .sequencerState
  | .alMap => .fault .sequencerState
  | .done => .fault .sequencerState
  | .error => .fault .sequencerState

/-- `CHECKSUM.6101` (R170). -/
def execChecksum6101 (s : State) : Result State :=
  runCommand .checksum6101 (latchChecksum .v6101) (checksumStep .v6101) s

/-- `CHECKSUM.6102_7101` (R171). -/
def execChecksum6102_7101 (s : State) : Result State :=
  runCommand .checksum6102_7101 (latchChecksum .v6102_7101) (checksumStep .v6102_7101) s

/-- `CHECKSUM.7102` (R172). -/
def execChecksum7102 (s : State) : Result State :=
  runCommand .checksum7102 (latchChecksum .v7102) (checksumStep .v7102) s

/-- `CHECKSUM.X103` (R173). -/
def execChecksumX103 (s : State) : Result State :=
  runCommand .checksumX103 (latchChecksum .x103) (checksumStep .x103) s

/-- `CHECKSUM.X105` (R174). -/
def execChecksumX105 (s : State) : Result State :=
  runCommand .checksumX105 (latchChecksum .x105) (checksumStep .x105) s

/-- `CHECKSUM.X106` (R175). -/
def execChecksumX106 (s : State) : Result State :=
  runCommand .checksumX106 (latchChecksum .x106) (checksumStep .x106) s

end Sys2Proof.Machine
end

