-- ==== Sys2Proof/Machine/Detector.lean ====
section
/-! DEFINITION. The variant detector and the alias resolver (41_variant_detector.md): one step each after acceptance. -/

namespace Sys2Proof.Machine

/-- The `DET_HASH` step: length check, hash of the 0xFC0 bytes at `off`, first match in code order (R200 to R203, R210 to
R212). -/
def detHash (minLen off : Word) (s : State) : Result State :=
  if s.lenl < minLen then .next (raiseError .bufferTooSmall s)
  else
    andThen (memReadBytes off ipl3HashLen s) fun blob =>
      .next (writeDetect (firstMatch Config.expectedHashOf (Config.hash128 blob)) s)

/-- The `AL_MAP` step (R221). -/
def alMap (s : State) : Result State :=
  match aliasOf s.aliasReg with
  | none => .next (raiseError .unrecognizedVariant s)
  | some v => .next (writeDetect (some v) s)

/-- The next step of a detection run (R34). -/
def detectStep (minLen off : Word) (s : State) : Result State :=
  match s.phase with
  | .detHash => detHash minLen off s
  | .idle => .fault .sequencerState
  | .ckInit => .fault .sequencerState
  | .ckLoop => .fault .sequencerState
  | .ckFinal => .fault .sequencerState
  | .alMap => .fault .sequencerState
  | .done => .fault .sequencerState
  | .error => .fault .sequencerState

/-- The next step of a resolver run (R34). -/
def resolveStep (s : State) : Result State :=
  match s.phase with
  | .alMap => alMap s
  | .idle => .fault .sequencerState
  | .ckInit => .fault .sequencerState
  | .ckLoop => .fault .sequencerState
  | .ckFinal => .fault .sequencerState
  | .detHash => .fault .sequencerState
  | .done => .fault .sequencerState
  | .error => .fault .sequencerState

/-- `DETECT_IPL3` (R200): the blob stands at the start of the buffer. -/
def execDetectIpl3 (s : State) : Result State :=
  runCommand .detectIpl3 latchDetectIpl3 (detectStep detIpl3MinLen 0) s

/-- `DETECT_ROM` (R210): the blob stands at bytes 0x40 to 0xFFF. -/
def execDetectRom (s : State) : Result State :=
  runCommand .detectRom latchDetectRom (detectStep detRomMinLen ipl3Off) s

/-- `RESOLVE_ALIAS` (R220). -/
def execResolveAlias (s : State) : Result State :=
  runCommand .resolveAlias latchResolveAlias resolveStep s

end Sys2Proof.Machine
end

