-- ==== Sys2Proof/Machine/Dispatch.lean ====
section
/-! DEFINITION. One arm per command: its acceptance and the steps of its run. -/

namespace Sys2Proof.Machine

/-- One transition of a command (log entry 13). -/
def exec (i : Instr) (s : State) : Host.Outcome State Fault Refusal :=
  match i with
  | .checksum6101 => Sys2Proof.Machine.execChecksum6101 s
  | .checksum6102_7101 => Sys2Proof.Machine.execChecksum6102_7101 s
  | .checksum7102 => Sys2Proof.Machine.execChecksum7102 s
  | .checksumX103 => Sys2Proof.Machine.execChecksumX103 s
  | .checksumX105 => Sys2Proof.Machine.execChecksumX105 s
  | .checksumX106 => Sys2Proof.Machine.execChecksumX106 s
  | .detectIpl3 => Sys2Proof.Machine.execDetectIpl3 s
  | .detectRom => Sys2Proof.Machine.execDetectRom s
  | .resolveAlias => Sys2Proof.Machine.execResolveAlias s

end Sys2Proof.Machine
end

