-- ==== Sys2Proof/Machine/Bus.lean ====
section
/-! DEFINITION. The two agents (R30): the host's transactions on the register window (R36, R77, R240) and on the ROM
buffer, the block's turn, and which of them moves (log entry 11). -/

namespace Sys2Proof.Machine

/-- A host write of `c` to `CMD` (R240): ignored while `BUSY`; a legal word starts its command; the two decode errors
are raised at once. -/
def writeCmd (c : Word) (s : State) : Result State :=
  if s.busy then .next s
  else
    match decode c with
    | .legal i => exec i s
    | .illegalCommand => .next (raiseError .illegalCommand (beginCommand s))
    | .unrecognizedVariant => .next (raiseError .unrecognizedVariant (beginCommand s))

/-- Only aligned 32-bit accesses are defined; any other is refused (R77, R261). -/
def accessCheck (off : Offset) (width : Width) : Result Unit :=
  if width ≠ .w32 then .refused .accessWidth
  else if off.toNat % 4 ≠ 0 then .refused .accessAlignment
  else .next ()

/-- A host write in the register window (R36 to R44): writes to read-only and reserved offsets are ignored. -/
def hostWrite (off : Offset) (width : Width) (d : Word) (s : State) : Result State :=
  andThen (accessCheck off width) fun _ =>
    if off = 0x00 then writeCmd d s
    else if off = 0x0C then .next (writeRomLen d s)
    else if off = 0x1C then .next (writeAlias d s)
    else .next s

/-- A host read in the register window: no side effect but the value returned (R77). -/
def hostRead (off : Offset) (width : Width) (s : State) : Result State :=
  andThen (accessCheck off width) fun _ => .next { s with rdata := readReg off s }

/-- An access at an absolute bus address: one that starts in the window is the access `inWindow` at its offset; one
that starts below and reaches into it is no aligned 32-bit access of a register and is refused (R77, R261; log entry
18); any other is no access of this block (log entry 1). -/
def busAccess (addr : Word) (width : Width) (inWindow : Offset → Result State) (s : State) : Result State :=
  match windowOffset addr with
  | some off => inWindow off
  | none =>
    if reachesWindow addr width then
      .refused (if width ≠ .w32 then .accessWidth else .accessAlignment)
    else .next s

/-- A host write at an absolute bus address (R36, R77). -/
def busWrite (addr : Word) (width : Width) (d : Word) (s : State) : Result State :=
  busAccess addr width (fun off => hostWrite off width d s) s

/-- A host read at an absolute bus address (R36, R77). -/
def busRead (addr : Word) (width : Width) (s : State) : Result State :=
  busAccess addr width (fun off => hostRead off width s) s

/-- The block's turn: in a busy phase the next step of the latched command's run (R33, R34); otherwise no step is
enabled and nothing changes (R257). -/
def blockTurn (s : State) : Result State :=
  if s.busy then
    match s.latched with
    | some i => exec i s
    | none => .fault .sequencerState
  else .next s

/-- The `wait` loop (R118), `rest` being the turns after it: `STATUS` is read; while it says `BUSY` the block moves and
the host reads again (log entry 12). -/
def waitTurn (rest : List HostAction) (s : State) : Result State :=
  if s.busy then blockTurn { s with rdata := statusWord s.phase }
  else .next { s with rdata := statusWord s.phase, script := rest }

/-- The host's turn `act`, taken from the script of which `rest` remains. -/
def hostTurn (act : HostAction) (rest : List HostAction) (s : State) : Result State :=
  match act with
  | .write off width d => hostWrite off width d { s with script := rest }
  | .read off width => hostRead off width { s with script := rest }
  | .busWrite addr width d => busWrite addr width d { s with script := rest }
  | .busRead addr width => busRead addr width { s with script := rest }
  | .romByte off b => hostRomByte off b { s with script := rest }
  | .romWord off w => hostRomWord off w { s with script := rest }
  | .romFill size image => .next (hostRomFill size image { s with script := rest })
  | .reset => .next (resetBlock { s with script := rest })
  | .wait => waitTurn rest s
  | .idle => blockTurn { s with script := rest }

/-- One turn of the system: the host's if it has one pending, else the block's. -/
def turn (s : State) : Result State :=
  match s.script with
  | [] => blockTurn s
  | act :: rest => hostTurn act rest s

/-- The command word `w` as the host's next write of `CMD`, with no run in progress, so that it is accepted (log entry
16). -/
def placeCommand (s : State) (nbits w : Nat) : State :=
  { s with
    phase := if s.busy then .idle else s.phase
    script := .write 0x00 .w32 (BitVec.ofNat 32 (w % 2 ^ nbits)) :: s.script }

end Sys2Proof.Machine
end

