-- ==== Sys2Proof/Machine/Step.lean ====
section
/-! DEFINITION. The step: one turn of the system (R30, R34). -/

namespace Sys2Proof.Machine

/-- One turn of the host or of the block. -/
def step (s : State) : Host.Outcome State Fault Refusal := turn s

/-- `s` with the command word `w` where the next step takes it from: the host's next turn writes it to `CMD`. -/
def State.withFetchWord (s : State) (nbits w : Nat) : State := placeCommand s nbits w

end Sys2Proof.Machine
end

