-- ==== Sys2Proof/Machine/Reference.lean ====
section
/-! DEFINITION. The reference function of the checksum (R166) and the closed forms of its registers (R169), written over
the buffer's contents alone: no phase, no cursor, no latched state. The engine is to agree with it. -/

namespace Sys2Proof.Machine

/-- The six working registers (R31). -/
structure WorkRegs where
  a3 : Word
  t2 : Word
  t3 : Word
  s0 : Word
  a2 : Word
  t4 : Word
  deriving DecidableEq, Repr

/-- The working registers of a state. -/
def State.workRegs (s : State) : WorkRegs :=
  { a3 := s.a3, t2 := s.t2, t3 := s.t3, s0 := s.s0, a2 := s.a2, t4 := s.t4 }

/-- The `i`-th word of the main stream, at bytes 0x1000 + 4 i (R150). -/
def mainWord (m : Memory) (i : Nat) : Word := m.word (0x1000 + 4 * i)

/-- The word of the second stream at iteration `i`: a cycle of 64 words at bytes 0x750 to 0x84F (R156, C6). -/
def secondWord (m : Memory) (i : Nat) : Word := m.word (0x750 + 4 * (i % 64))

/-- The registers a run starts from: all equal (R143). -/
def WorkRegs.start (acc : Word) : WorkRegs := ⟨acc, acc, acc, acc, acc, acc⟩

/-- The loop body of R166 on the words `w` and `x` of one iteration. -/
def refIteration (v : Variant) (w x : Word) (r : WorkRegs) : WorkRegs :=
  let candidate := r.a3 + w
  let t2 := if candidate.toNat < r.a3.toNat then r.t2 + 1 else r.t2
  let mixed := rotl32 w (w.toNat % 32)
  let a2 := if r.a2.toNat < w.toNat then (candidate ^^^ w) ^^^ r.a2 else r.a2 ^^^ mixed
  let s0 := r.s0 + mixed
  let feed := if v = .x105 then w ^^^ x else w ^^^ s0
  { a3 := candidate, t2 := t2, t3 := r.t3 ^^^ w, s0 := s0, a2 := a2, t4 := r.t4 + feed }

/-- The registers after the first `n` iterations. -/
def refLoop (v : Variant) (m : Memory) (acc : Word) : Nat → WorkRegs
  | 0 => WorkRegs.start acc
  | n + 1 => refIteration v (mainWord m n) (secondWord m n) (refLoop v m acc n)

/-- `CK_ITERS` (R8). -/
def ckIters : Nat := 0x40000

/-- The two result words of R166 for the start value `acc`. -/
def refWordsFrom (v : Variant) (m : Memory) (acc : Word) : Word × Word :=
  let r := refLoop v m acc ckIters
  (combine0 v r.a3 r.t2 r.t3, combine1 v r.s0 r.a2 r.t4)

/-- R166: `none` is `BufferTooSmall`. -/
def refChecksum (m : Memory) (len : Word) (v : Variant) : Option (Word × Word) :=
  if len.toNat < 0x101000 then none else some (refWordsFrom v m (acc0 v))

/-- The integer sum of a word function over the first `n` iterations (R169). -/
def sumOver (f : Nat → Word) : Nat → Nat
  | 0 => 0
  | n + 1 => sumOver f n + (f n).toNat

/-- The XOR of a word function over the first `n` iterations (R169). -/
def xorOver (f : Nat → Word) : Nat → Word
  | 0 => 0
  | n + 1 => xorOver f n ^^^ f n

/-- The alias table as R110 prints it: CIC number and variant code. -/
def cicTable : List (Nat × Nat) :=
  [(6101, 0), (6102, 1), (7101, 1), (7102, 2), (6103, 3), (7103, 3), (6105, 4), (7105, 4), (6106, 5), (7106, 5)]

end Sys2Proof.Machine
end

