-- ==== Sys2Proof/Safety.lean ====
section
/-! DEFINITION. What claims say of states and runs: quiescence, the observation of a run (R263), the invariant of the
states that the rules lead to, and the turns that only the block makes. -/

namespace Sys2Proof.Machine

/-- A state in which no step of the block is enabled (R257). -/
def State.quiescent (s : State) : Bool := !s.busy

/-- The observation of a run (R263). -/
structure Observation where
  status : Word
  errcode : Word
  result0 : Word
  result1 : Word
  detect : Word
  deriving DecidableEq, Repr

/-- What the host reads once the run is over (R263). -/
def State.observe (s : State) : Observation :=
  { status := readReg 0x04 s, errcode := readReg 0x08 s, result0 := readReg 0x10 s, result1 := readReg 0x14 s
    detect := readReg 0x18 s }

/-- `n` steps from `s` all go through and lead to `t`. -/
def RunsTo (n : Nat) (s t : State) : Prop := Host.Core.run Sys2Proof.core n s = .next t

/-- The value of `DETECT` is one that the block writes (R42, R44, R107). -/
def detectLegal (d : Word) : Prop := ∃ m : Option Variant, d = detectWord m

/-- The run of a checksum in its loop (R34, R142, R143, R156, R158): `t0` bytes are consumed, the cursor follows, the
second pointer is in its cycle, the buffer is long enough. -/
structure LoopInv (v : Variant) (s : State) : Prop where
  long : ckMinLen.toNat ≤ s.lenl.toNat
  entry : s.epr = s.ep + epAdj v
  wordwise : s.t0.toNat % 4 = 0
  cursor : s.t1 = s.epr + s.t0
  pointer : v = .x105 → s.s6 = x105Ptr0 + BitVec.ofNat 32 (s.t0.toNat % 0x100)

/-- The invariant of the system: it holds at reset and every turn keeps it. -/
structure Inv (s : State) : Prop where
  /-- The buffer's contents are in canonical form. -/
  romWf : s.rom.wf
  /-- Every listed byte is one of the storage connected. -/
  romInside : ∀ c ∈ s.rom, c.1 < s.romStorage
  /-- `CODE` is nonzero exactly when `STATE = ERROR` (R39). -/
  errIff : s.errcode ≠ .noError ↔ s.phase = .error
  /-- The reserved bits of `DETECT` are 0, its code names a variant and is 0 with no match (R42, R44, R107). -/
  detectOk : detectLegal s.detect
  /-- Before the first command and during a run the results read 0 (R41, R42, R292). -/
  noEarly : s.phase = .idle ∨ s.busy = true → s.result0 = 0 ∧ s.result1 = 0 ∧ s.detect = 0
  /-- After an error they stay 0 (R241), unless the host changed the buffer (R290). -/
  noPartial : s.phase = .error → s.tainted = false → s.result0 = 0 ∧ s.result1 = 0 ∧ s.detect = 0
  /-- A checksum leaves `DETECT` 0 (R240, R140). -/
  ckKeepsDetect : s.phase = .done → s.tainted = false → s.opl = 1 → s.detect = 0
  /-- A detector or resolver command leaves the result words 0 (R222). -/
  detKeepsResults : s.phase = .done → s.tainted = false → s.opl ≠ 1 → s.result0 = 0 ∧ s.result1 = 0
  /-- In a checksum phase the latched operation is `CHECKSUM` of a variant (R33, R240). -/
  ckLatch : s.phase = .ckInit ∨ s.phase = .ckLoop ∨ s.phase = .ckFinal →
    s.opl = 1 ∧ ∃ v, s.vl = variantCode v
  /-- In `DET_HASH` the latched operation is a detection. -/
  detLatch : s.phase = .detHash → s.opl = 2 ∨ s.opl = 3
  /-- In `AL_MAP` the latched operation is `RESOLVE_ALIAS`. -/
  alLatch : s.phase = .alMap → s.opl = 4
  /-- In `CK_LOOP` fewer than 0x100000 bytes are consumed (R34). -/
  inLoop : s.phase = .ckLoop → s.t0.toNat < 0x100000 ∧ ∀ v, s.vl = variantCode v → LoopInv v s
  /-- In `CK_FINAL` all of them are (R158). -/
  atFinal : s.phase = .ckFinal → s.t0 = ckBytes ∧ ∀ v, s.vl = variantCode v → LoopInv v s

end Sys2Proof.Machine
end

