-- ==== Sys2Proof/Certificates/Slice0/Obligations.lean ====
section
/-! DEFINITION. The statements for the provers, from the numbered rules of spec/. A run is stated over every state, not
from reset alone. `RunsTo n s t`: `n` steps from `s` all go through and lead to `t`. -/

open Sys2Proof Sys2Proof.Machine

/-! ### Encoding -/

/-- R105 (derived: a sanity statement on the words themselves): the nine legal command words, written out from the
table, decode to their commands. -/
def Obligations.LegalWordsDecode : Prop :=
  decode 0x00000001 = .legal .checksum6101 ∧
  decode 0x00000011 = .legal .checksum6102_7101 ∧
  decode 0x00000021 = .legal .checksum7102 ∧
  decode 0x00000031 = .legal .checksumX103 ∧
  decode 0x00000041 = .legal .checksumX105 ∧
  decode 0x00000051 = .legal .checksumX106 ∧
  decode 0x00000002 = .legal .detectIpl3 ∧
  decode 0x00000003 = .legal .detectRom ∧
  decode 0x00000004 = .legal .resolveAlias

/-- R105: over all 2^32 words, a word decodes to a command exactly when it is that command's word, the ten words 0x61 to
0xF1 in steps of 0x10 are `UnrecognizedVariant`, and every other word is `IllegalCommand`. -/
def Obligations.CommandMapIsComplete : Prop :=
  encode .checksum6101 = 0x00000001 ∧ encode .checksum6102_7101 = 0x00000011 ∧
  encode .checksum7102 = 0x00000021 ∧ encode .checksumX103 = 0x00000031 ∧
  encode .checksumX105 = 0x00000041 ∧ encode .checksumX106 = 0x00000051 ∧
  encode .detectIpl3 = 0x00000002 ∧ encode .detectRom = 0x00000003 ∧ encode .resolveAlias = 0x00000004 ∧
  (∀ (c : Word) (i : Instr), decode c = .legal i ↔ c = encode i) ∧
  (∀ c : Word, decode c = .unrecognizedVariant ↔ ∃ k : Nat, 6 ≤ k ∧ k ≤ 15 ∧ c = BitVec.ofNat 32 (16 * k + 1)) ∧
  (∀ c : Word, decode c = .illegalCommand ↔
    (∀ i : Instr, c ≠ encode i) ∧ ∀ k : Nat, 6 ≤ k → k ≤ 15 → c ≠ BitVec.ofNat 32 (16 * k + 1))

/-! ### The step and the commands -/

/-- R37, R240 (that the host's pending turn is one step of the model is log entry 11): when the host's next turn writes
a word to `CMD`, at its offset or at its bus address, the step is the write's effect on the state with the turn taken,
for every word, one that is rejected included; for a word that decodes to a command and with no run in progress it is
`exec` of that command. -/
def Obligations.AcceptedWordRuns : Prop :=
  ∀ (s : State) (c : Word) (rest : List HostAction),
    s.script = .write 0x00 .w32 c :: rest ∨ s.script = .busWrite Config.ckbase .w32 c :: rest →
      step s = writeCmd c { s with script := rest } ∧
      ∀ i : Instr, s.busy = false → decode c = .legal i → step s = exec i { s with script := rest }

/-- R33, R34 (derived; that an empty script or an idle turn lets the block move is the model's choice, log entry 11, and
that one pass of `wait` reads `STATUS` and makes the block's step is too, log entry 12): in a busy phase the block's turn
is `exec` of the latched command, whether the host has no turn pending, takes an idle turn, or waits (it then has read
`STATUS` = 1). -/
def Obligations.LatchedCommandRuns : Prop :=
  ∀ (s : State) (i : Instr), s.busy = true → s.latched = some i →
    (s.script = [] → step s = exec i s) ∧
    (∀ rest, s.script = .idle :: rest → step s = exec i { s with script := rest }) ∧
    (∀ rest, s.script = .wait :: rest → step s = exec i { s with rdata := 1 })

/-- R257: in `IDLE`, `DONE` and `ERROR` no step is enabled and no state changes until a host write or reset: with no
host turn the step changes nothing, an idle turn only takes itself from the script, and a read only returns its value.
The `wait` loop ends there, with the `STATUS` it read. -/
def Obligations.QuiescentBlockWaits : Prop :=
  ∀ s : State, s.phase = .idle ∨ s.phase = .done ∨ s.phase = .error →
    (s.script = [] → step s = .next s) ∧
    (∀ rest, s.script = .idle :: rest → step s = .next { s with script := rest }) ∧
    (∀ rest, s.script = .wait :: rest → step s = .next { s with script := rest, rdata := statusWord s.phase }) ∧
    (∀ off rest, s.script = .read off .w32 :: rest → off.toNat % 4 = 0 →
      step s = .next { s with script := rest, rdata := readReg off s })

/-- Log entry 16 (the model's convention): a command word placed where the step takes its next command from is run by
the very next step. -/
def Obligations.PlacedCommandRuns : Prop :=
  ∀ (s : State) (c : Word) (i : Instr), s.busy = false → decode c = .legal i →
    step (s.withFetchWord 32 c.toNat) = exec i s ∧ decodeTableWord 32 c.toNat = some i

/-! ### Acceptance -/

/-- R240: what a write of `c` to `CMD` does. While `BUSY` nothing; otherwise, from `IDLE`, `DONE` and `ERROR` alike, the
results and `ERRCODE` are cleared, `LENL` is latched, and the word is rejected with its error or its operation is latched
and its first phase entered. Everything else is as before. The model's own mark of a changed buffer (log entry 7) is
masked: nothing is said of it here. -/
def Obligations.AcceptanceOfAWord : Prop :=
  ∀ (c : Word) (s : State),
    (s.busy = true → writeCmd c s = .next s) ∧
    (s.busy = false → ∃ t, writeCmd c s = .next t ∧
      (decode c = .illegalCommand → { t with tainted := s.tainted } = { s with
        result0 := 0, result1 := 0, detect := 0, lenl := s.romLen
        errcode := .illegalCommand, phase := .error }) ∧
      (decode c = .unrecognizedVariant → { t with tainted := s.tainted } = { s with
        result0 := 0, result1 := 0, detect := 0, lenl := s.romLen
        errcode := .unrecognizedVariant, phase := .error }) ∧
      (∀ v : Variant, decode c = .legal (checksumOf v) → { t with tainted := s.tainted } = { s with
        result0 := 0, result1 := 0, detect := 0, lenl := s.romLen
        errcode := .noError, opl := 1, vl := variantCode v, phase := .ckInit }) ∧
      (decode c = .legal .detectIpl3 → { t with tainted := s.tainted } = { s with
        result0 := 0, result1 := 0, detect := 0, lenl := s.romLen
        errcode := .noError, opl := 2, phase := .detHash }) ∧
      (decode c = .legal .detectRom → { t with tainted := s.tainted } = { s with
        result0 := 0, result1 := 0, detect := 0, lenl := s.romLen
        errcode := .noError, opl := 3, phase := .detHash }) ∧
      (decode c = .legal .resolveAlias → { t with tainted := s.tainted } = { s with
        result0 := 0, result1 := 0, detect := 0, lenl := s.romLen
        errcode := .noError, opl := 4, phase := .alMap }))

/-- R240 (derived: `exec` with no run in progress is acceptance, log entry 13, and it clears the model's own mark of a
changed buffer, log entry 7): each of the six `CHECKSUM` commands answers a next state, from every state with no run in
progress. -/
def Obligations.ChecksumIsAccepted : Prop :=
  ∀ (v : Variant) (s : State), s.busy = false →
    exec (checksumOf v) s = .next { s with
      result0 := 0, result1 := 0, detect := 0, lenl := s.romLen, tainted := false
      errcode := .noError, opl := 1, vl := variantCode v, phase := .ckInit }

/-- R240 (derived, as the statement before: log entries 7 and 13): the two detections and `RESOLVE_ALIAS` answer a next
state, from every state with no run in progress. `VL` keeps what it held. -/
def Obligations.DetectorIsAccepted : Prop :=
  ∀ s : State, s.busy = false →
    exec .detectIpl3 s = .next { s with
      result0 := 0, result1 := 0, detect := 0, lenl := s.romLen, tainted := false
      errcode := .noError, opl := 2, phase := .detHash } ∧
    exec .detectRom s = .next { s with
      result0 := 0, result1 := 0, detect := 0, lenl := s.romLen, tainted := false
      errcode := .noError, opl := 3, phase := .detHash } ∧
    exec .resolveAlias s = .next { s with
      result0 := 0, result1 := 0, detect := 0, lenl := s.romLen, tainted := false
      errcode := .noError, opl := 4, phase := .alMap }

/-- R291: a write of `CMD`, `ROM_LEN` or `ALIAS` while `STATE = BUSY` is ignored. -/
def Obligations.BusyWritesIgnored : Prop :=
  ∀ (s : State) (off : Offset) (d : Word) (rest : List HostAction),
    s.busy = true → off = 0x00 ∨ off = 0x0C ∨ off = 0x1C → s.script = .write off .w32 d :: rest →
      step s = .next { s with script := rest }

/-! ### The checksum engine -/

/-- R141: the first statement of `CK_INIT`. A buffer shorter than 0x101000 bytes raises `BufferTooSmall` and nothing
else changes, whatever is connected to the ROM port (no byte is read); a buffer of 0x101000 bytes or more passes. -/
def Obligations.ShortBufferRaises : Prop :=
  ∀ (v : Variant) (s : State), s.phase = .ckInit → s.latched = some (checksumOf v) →
    (s.lenl.toNat < 0x101000 → s.tainted = false →
      exec (checksumOf v) s = .next { s with errcode := .bufferTooSmall, phase := .error }) ∧
    (0x101000 ≤ s.lenl.toNat → 0xC ≤ s.romStorage →
      ∃ t, exec (checksumOf v) s = .next t ∧ t.phase = .ckLoop ∧ t.errcode = s.errcode)

/-- R143, R144 (with the entrypoint word of R142): `CK_INIT` on a long enough buffer seeds the run. All six working
registers take `seed * magic + 1` modulo 2^32, the counter 0, the cursor the adjusted entrypoint; `s6` is written for
`X105` only; nothing else changes. -/
def Obligations.CkInitSeedsTheRun : Prop :=
  ∀ (v : Variant) (s : State), s.phase = .ckInit → s.latched = some (checksumOf v) →
    0x101000 ≤ s.lenl.toNat → 0xC ≤ s.romStorage →
    let e := bigEndian (s.rom.read 8) (s.rom.read 9) (s.rom.read 10) (s.rom.read 11)
    let adj : Word := if v = .x103 then 0xFFF00000 else if v = .x106 then 0xFFE00000 else 0
    let acc : Word := Config.seedOf v * Config.magicOf v + 1
    exec (checksumOf v) s = .next { s with
      ep := e, epr := e + adj
      a3 := acc, t2 := acc, t3 := acc, s0 := acc, a2 := acc, t4 := acc
      t0 := 0, t1 := e + adj
      s6 := if v = .x105 then 0xA0000200 else s.s6
      phase := .ckLoop }

/-- R151 to R155, R157, R158: one iteration of every variant but `X105`, on the big-endian word read at the translated
cursor, inside the 0x101000-byte window (the read itself is R150's and R78's, of which `MainStreamOffset` says the rest;
`ReadOutsideBufferFaults` says where it stops). The carry is counted exactly when the sum reaches 2^32, the rotation is by the word's own low five bits, the
branch compares unsigned with equality not taken, the feed reads the new `s0`, and the end test follows the body.
Nothing else changes. -/
def Obligations.CkLoopDefaultIteration : Prop :=
  ∀ (v : Variant) (s : State), v ≠ .x105 → s.phase = .ckLoop → s.latched = some (checksumOf v) →
    let off := (s.t1 - s.epr + 0x1000).toNat
    off + 4 ≤ 0x101000 → off + 4 ≤ s.lenl.toNat → off + 4 ≤ s.romStorage →
    let w := bigEndian (s.rom.read off) (s.rom.read (off + 1)) (s.rom.read (off + 2)) (s.rom.read (off + 3))
    let mixed := w.rotateLeft (w.toNat % 32)
    exec (checksumOf v) s = .next { s with
      t2 := if 2 ^ 32 ≤ s.a3.toNat + w.toNat then s.t2 + 1 else s.t2
      a2 := if s.a2.toNat < w.toNat then ((s.a3 + w) ^^^ w) ^^^ s.a2 else s.a2 ^^^ mixed
      a3 := s.a3 + w
      t3 := s.t3 ^^^ w
      s0 := s.s0 + mixed
      t4 := s.t4 + (w ^^^ (s.s0 + mixed))
      t0 := s.t0 + 4
      t1 := s.t1 + 4
      phase := if s.t0 + 4 = 0x100000 then .ckFinal else .ckLoop }

/-- R151 to R154 and R156 to R158: one iteration of `X105`, both words inside the 0x101000-byte window (the main read
itself is R150's and R78's, the second one's translation R79's; `ReadOutsideBufferFaults` says where they stop). The feed
takes the second-stream word at the pointer's value before its advance; the pointer then adds 4 and is masked. Nothing
else changes. -/
def Obligations.CkLoopX105Iteration : Prop :=
  ∀ s : State, s.phase = .ckLoop → s.latched = some .checksumX105 →
    let off := (s.t1 - s.epr + 0x1000).toNat
    let off2 := (s.s6 - 0xA0000004 + 0x554).toNat
    off + 4 ≤ 0x101000 → off + 4 ≤ s.lenl.toNat → off + 4 ≤ s.romStorage →
    off2 + 4 ≤ 0x101000 → off2 + 4 ≤ s.lenl.toNat → off2 + 4 ≤ s.romStorage →
    let w := bigEndian (s.rom.read off) (s.rom.read (off + 1)) (s.rom.read (off + 2)) (s.rom.read (off + 3))
    let x := bigEndian (s.rom.read off2) (s.rom.read (off2 + 1)) (s.rom.read (off2 + 2)) (s.rom.read (off2 + 3))
    let mixed := w.rotateLeft (w.toNat % 32)
    exec .checksumX105 s = .next { s with
      t2 := if 2 ^ 32 ≤ s.a3.toNat + w.toNat then s.t2 + 1 else s.t2
      a2 := if s.a2.toNat < w.toNat then ((s.a3 + w) ^^^ w) ^^^ s.a2 else s.a2 ^^^ mixed
      a3 := s.a3 + w
      t3 := s.t3 ^^^ w
      s0 := s.s0 + mixed
      t4 := s.t4 + (w ^^^ x)
      s6 := (s.s6 + 4) &&& 0xA00002FF
      t0 := s.t0 + 4
      t1 := s.t1 + 4
      phase := if s.t0 + 4 = 0x100000 then .ckFinal else .ckLoop }

/-- R160, R164: the final step of `CHECKSUM.X103`, for a buffer the host left alone. -/
def Obligations.CkFinalX103 : Prop :=
  ∀ s : State, s.phase = .ckFinal → s.latched = some .checksumX103 → s.tainted = false →
    exec .checksumX103 s = .next { s with
      result0 := (s.a3 ^^^ s.t2) + s.t3, result1 := (s.s0 ^^^ s.a2) + s.t4
      errcode := .noError, phase := .done }

/-- R161, R164: the final step of `CHECKSUM.X106`, for a buffer the host left alone. -/
def Obligations.CkFinalX106 : Prop :=
  ∀ s : State, s.phase = .ckFinal → s.latched = some .checksumX106 → s.tainted = false →
    exec .checksumX106 s = .next { s with
      result0 := (s.a3 * s.t2) + s.t3, result1 := (s.s0 * s.a2) + s.t4
      errcode := .noError, phase := .done }

/-- R162, R164: the final step of the other four variants, for a buffer the host left alone. -/
def Obligations.CkFinalDefault : Prop :=
  ∀ (v : Variant) (s : State), v = .v6101 ∨ v = .v6102_7101 ∨ v = .v7102 ∨ v = .x105 →
    s.phase = .ckFinal → s.latched = some (checksumOf v) → s.tainted = false →
    exec (checksumOf v) s = .next { s with
      result0 := s.a3 ^^^ s.t2 ^^^ s.t3, result1 := s.s0 ^^^ s.a2 ^^^ s.t4
      errcode := .noError, phase := .done }

/-- R290 (derived: that the draws are these constants is the model's convention, log entries 7 and 8): a checksum run
whose buffer the host changed still ends with `DONE`; its three results are free values, and nothing else is. -/
def Obligations.ChangedBufferEndsInDraws : Prop :=
  ∀ (v : Variant) (s : State), s.phase = .ckFinal → s.latched = some (checksumOf v) → s.tainted = true →
    exec (checksumOf v) s = .next { s with
      result0 := Config.freeWord s.draws, result1 := Config.freeWord (s.draws + 1)
      detect := detectWord (Config.freeDetect (s.draws + 2)), draws := s.draws + 3
      errcode := .noError, phase := .done }

/-- R290: the host's change of the buffer during a run changes what that run ends with in `RESULT0`, `RESULT1` and
`DETECT` only: every transition of every command that goes through without the mark goes through with it, to the same
`STATE`, the same `ERRCODE` and the same everything else. -/
def Obligations.ChangedBufferFreesResultsOnly : Prop :=
  ∀ (i : Instr) (s u : State), exec i { s with tainted := false } = .next u →
    ∃ t, exec i { s with tainted := true } = .next t ∧
      { t with result0 := u.result0, result1 := u.result1, detect := u.detect, draws := u.draws
               tainted := u.tainted } = u

/-! ### The detector and the alias resolver -/

/-- R201, R202: the `DET_HASH` step of `DETECT_IPL3` on a buffer of 0xFC0 bytes or more: the hash of bytes 0 to 0xFBF,
the first match, `MATCH` and the code in `DETECT`. Nothing else changes. -/
def Obligations.DetectIpl3Completes : Prop :=
  ∀ s : State, s.phase = .detHash → s.latched = some .detectIpl3 → s.tainted = false →
    0xFC0 ≤ s.lenl.toNat → 0xFC0 ≤ s.romStorage →
    let h := Config.hash128 ((List.range 0xFC0).map fun k => s.rom.read k)
    exec .detectIpl3 s = .next { s with
      detect := match firstMatch Config.expectedHashOf h with
        | none => 0
        | some v => (1#32 <<< 8) ||| (variantCode v).setWidth 32
      errcode := .noError, phase := .done }

/-- R211, R212: the `DET_HASH` step of `DETECT_ROM` on a buffer of 0x1000 bytes or more: the same over bytes 0x40 to
0xFFF. -/
def Obligations.DetectRomCompletes : Prop :=
  ∀ s : State, s.phase = .detHash → s.latched = some .detectRom → s.tainted = false →
    0x1000 ≤ s.lenl.toNat → 0x1000 ≤ s.romStorage →
    let h := Config.hash128 ((List.range 0xFC0).map fun k => s.rom.read (0x40 + k))
    exec .detectRom s = .next { s with
      detect := match firstMatch Config.expectedHashOf h with
        | none => 0
        | some v => (1#32 <<< 8) ||| (variantCode v).setWidth 32
      errcode := .noError, phase := .done }

/-- R200, R210 (their length checks, R243): where a detection traps. A buffer one byte short raises `BufferTooSmall`
whatever is connected; 0xFC0 bytes pass the one form and not the other. -/
def Obligations.ShortBlobRaises : Prop :=
  ∀ s : State, s.phase = .detHash → s.tainted = false →
    (s.latched = some .detectIpl3 → s.lenl.toNat < 0xFC0 →
      exec .detectIpl3 s = .next { s with errcode := .bufferTooSmall, phase := .error }) ∧
    (s.latched = some .detectRom → s.lenl.toNat < 0x1000 →
      exec .detectRom s = .next { s with errcode := .bufferTooSmall, phase := .error })

/-- R203: the search answers a variant exactly when its expected hash is `h` and no variant of a lower code has that
hash, and none exactly when no variant has it; ties go to the lower code. For every expected-hash column. -/
def Obligations.FirstMatchIsLowestCode : Prop :=
  ∀ (expected : Variant → Digest) (h : Digest),
    (∀ v, firstMatch expected h = some v ↔
      expected v = h ∧ ∀ u, (variantCode u).toNat < (variantCode v).toNat → expected u ≠ h) ∧
    (firstMatch expected h = none ↔ ∀ v, expected v ≠ h)

/-- R205, over every expected-hash column: where the six hashes are pairwise distinct, a variant's own hash finds exactly
that variant; a hash that no variant has finds none. -/
def Obligations.DistinctHashesRoundTrip : Prop :=
  ∀ expected : Variant → Digest,
    ((∀ u v, expected u = expected v → u = v) → ∀ v, firstMatch expected (expected v) = some v) ∧
    ∀ h : Digest, (∀ v, expected v ≠ h) → firstMatch expected h = none

/-- R213: `DETECT_ROM` on a buffer `B` of 0x1000 bytes or more and `DETECT_IPL3` on `B[0x40 .. 0xFFF]` with length 0xFC0
write the same `DETECT`. -/
def Obligations.DetectRomIsDetectIpl3OfTheBlob : Prop :=
  ∀ s b : State, s.phase = .detHash → s.latched = some .detectRom → s.tainted = false →
    0x1000 ≤ s.lenl.toNat → 0x1000 ≤ s.romStorage →
    b.phase = .detHash → b.latched = some .detectIpl3 → b.tainted = false →
    b.lenl = 0xFC0 → 0xFC0 ≤ b.romStorage →
    (∀ k < 0xFC0, b.rom.read k = s.rom.read (0x40 + k)) →
    ∃ t u, exec .detectRom s = .next t ∧ exec .detectIpl3 b = .next u ∧
      t.detect = u.detect ∧ t.phase = .done ∧ u.phase = .done

/-- R221, with the ten rows of R110: the `AL_MAP` step. Each of the ten CIC numbers gives `MATCH` and its code; every
other number, 5101 and 0 among them, raises `UnrecognizedVariant`. Nothing else changes. -/
def Obligations.ResolveAliasCompletes : Prop :=
  ∀ s : State, s.phase = .alMap → s.latched = some .resolveAlias → s.tainted = false →
    (∀ p ∈ cicTable, s.aliasReg = BitVec.ofNat 32 p.1 →
      exec .resolveAlias s = .next { s with
        detect := BitVec.ofNat 32 (0x100 + p.2), errcode := .noError, phase := .done }) ∧
    ((∀ p ∈ cicTable, s.aliasReg ≠ BitVec.ofNat 32 p.1) →
      exec .resolveAlias s = .next { s with errcode := .unrecognizedVariant, phase := .error })

/-! ### The host's register window -/

/-- R36 to R44 (reads): an aligned 32-bit read returns the register at its offset, `CMD` and the reserved offsets read
0, and reading has no other effect. -/
def Obligations.HostReadsReturnRegisters : Prop :=
  ∀ (s : State) (off : Offset) (rest : List HostAction),
    s.script = .read off .w32 :: rest → off.toNat % 4 = 0 →
    ∃ d : Word, step s = .next { s with script := rest, rdata := d } ∧
      (off.toNat = 0x00 → d = 0) ∧
      (off.toNat = 0x04 → d = statusWord s.phase) ∧
      (off.toNat = 0x08 → d = errWord s.errcode) ∧
      (off.toNat = 0x0C → d = s.romLen) ∧
      (off.toNat = 0x10 → d = s.result0) ∧
      (off.toNat = 0x14 → d = s.result1) ∧
      (off.toNat = 0x18 → d = s.detect) ∧
      (off.toNat = 0x1C → d = s.aliasReg) ∧
      (0x20 ≤ off.toNat → d = 0)

/-- R36, R38 to R44 (writes): with no run in progress a write of `ROM_LEN` or `ALIAS` takes all 32 bits; a write of a
read-only or reserved offset is ignored in every state. -/
def Obligations.HostWritesReachWritableRegisters : Prop :=
  ∀ (s : State) (off : Offset) (d : Word) (rest : List HostAction), s.script = .write off .w32 d :: rest →
    (off = 0x0C → s.busy = false → step s = .next { s with script := rest, romLen := d }) ∧
    (off = 0x1C → s.busy = false → step s = .next { s with script := rest, aliasReg := d }) ∧
    (off.toNat % 4 = 0 → off ≠ 0x00 → off ≠ 0x0C → off ≠ 0x1C → step s = .next { s with script := rest })

/-- R77, R261 (derived; that both are refused in every phase, under these two names, and that the width is judged before
the alignment, is log entry 18; which other widths there are, 8, 16 and 64 bits, is log entry 31): an access of another
width, or a 32-bit one whose offset is no multiple of 4, is refused. -/
def Obligations.UndefinedAccessIsRefused : Prop :=
  ∀ (s : State) (off : Offset) (width : Width) (d : Word) (rest : List HostAction),
    s.script = .write off width d :: rest ∨ s.script = .read off width :: rest →
      (width ≠ .w32 → step s = .refused .accessWidth) ∧
      (width = .w32 → off.toNat % 4 ≠ 0 → step s = .refused .accessAlignment)

/-- R36, R77, R261 (derived; that an access with no byte in the window changes nothing is log entry 1, the names of the
refusals are log entry 18, that the bytes are counted modulo 2^32 is log entry 26, and that an access is of 8, 16, 32 or
64 bits is log entry 31): a bus access that starts at
`CKBASE + offset` is the window access at that offset, whatever `CKBASE` is; one that starts outside the window and has a
byte in it is refused; one with no byte in it is no access of the block. -/
def Obligations.BusAddressSelectsRegister : Prop :=
  ∀ (s : State) (width : Width) (d : Word),
    (∀ off : Offset,
      busWrite (Config.ckbase + off.setWidth 32) width d s = hostWrite off width d s ∧
      busRead (Config.ckbase + off.setWidth 32) width s = hostRead off width s) ∧
    ∀ addr : Word, (∀ o : Offset, addr ≠ Config.ckbase + o.setWidth 32) →
      ((∃ k o, k < accessBytes width ∧ addr + BitVec.ofNat 32 k = Config.ckbase + (o : Offset).setWidth 32) →
        (width ≠ .w32 → busWrite addr width d s = .refused .accessWidth ∧
          busRead addr width s = .refused .accessWidth) ∧
        (width = .w32 → busWrite addr width d s = .refused .accessAlignment ∧
          busRead addr width s = .refused .accessAlignment)) ∧
      ((∀ k < accessBytes width, ∀ o : Offset, addr + BitVec.ofNat 32 k ≠ Config.ckbase + o.setWidth 32) →
        busWrite addr width d s = .next s ∧ busRead addr width s = .next s)

/-- R38: `STATUS` is a function of `PHASE` and nothing else: 0 in `IDLE`, 1 in the five busy phases, 2 in `DONE`, 3 in
`ERROR`, its reserved bits 0, and 0 after reset. A write of it is ignored. -/
def Obligations.StatusFollowsPhase : Prop :=
  (∀ s : State,
    (s.phase = .idle → readReg 0x04 s = 0) ∧
    (s.phase = .ckInit ∨ s.phase = .ckLoop ∨ s.phase = .ckFinal ∨ s.phase = .detHash ∨ s.phase = .alMap →
      readReg 0x04 s = 1) ∧
    (s.phase = .done → readReg 0x04 s = 2) ∧
    (s.phase = .error → readReg 0x04 s = 3)) ∧
  (∀ s t : State, s.phase = t.phase → readReg 0x04 s = readReg 0x04 t) ∧
  (∀ (s : State) (d : Word), hostWrite 0x04 .w32 d s = .next s) ∧
  readReg 0x04 State.reset = 0

/-- R39: the codes of `ERRCODE`, its reserved bits 0, `CODE` nonzero exactly when `STATE = ERROR` (in every state that
meets the invariant), and 0 after reset. A write of it is ignored. -/
def Obligations.ErrcodeNonzeroExactlyInError : Prop :=
  errWord .noError = 0 ∧ errWord .bufferTooSmall = 1 ∧ errWord .unrecognizedVariant = 2 ∧
  errWord .illegalCommand = 3 ∧
  (∀ s : State, readReg 0x08 s = errWord s.errcode) ∧
  (∀ s : State, Inv s → (readReg 0x08 s ≠ 0 ↔ readReg 0x04 s = 3)) ∧
  (∀ (s : State) (d : Word), hostWrite 0x08 .w32 d s = .next s) ∧
  readReg 0x08 State.reset = 0

/-! ### The ROM buffer -/

/-- R72: the word that a read answers is the four bytes at its offset, the first the most significant. -/
def Obligations.WordsAreBigEndian : Prop :=
  ∀ (off : Word) (s : State) (w : Word), memRead32 off s = .next w →
    w.toNat = (s.rom.read off.toNat).toNat * 2 ^ 24 + (s.rom.read (off.toNat + 1)).toNat * 2 ^ 16 +
      (s.rom.read (off.toNat + 2)).toNat * 2 ^ 8 + (s.rom.read (off.toNat + 3)).toNat

/-- R75 (its last sentence), U4, N8, U11 (derived; that the refusal is at the read is log entry 10, and that a word partly
outside the window is outside it is log entry 30): where a ROM read stops. Outside `ROM[0 .. LENL-1]` it faults; inside
it, where the storage connected ends earlier, it is refused; otherwise it gives the word. A read at a translated address
faults outside the 0x101000-byte window too, and is that read inside it; so a `CK_LOOP` step whose main word, or for
`X105` whose second word, is outside faults. -/
def Obligations.ReadOutsideBufferFaults : Prop :=
  ∀ (off : Word) (s : State),
    (s.lenl.toNat < off.toNat + 4 → memRead32 off s = .fault .romOutsideBuffer) ∧
    (off.toNat + 4 ≤ s.lenl.toNat → s.romStorage < off.toNat + 4 → memRead32 off s = .refused .romNotConnected) ∧
    (off.toNat + 4 ≤ s.lenl.toNat → off.toNat + 4 ≤ s.romStorage → memRead32 off s = .next (s.rom.word off.toNat)) ∧
    (0x101000 < off.toNat + 4 → memReadStream off s = .fault .romOutsideBuffer) ∧
    (off.toNat + 4 ≤ 0x101000 → memReadStream off s = memRead32 off s) ∧
    ∀ v : Variant, s.phase = .ckLoop → s.latched = some (checksumOf v) →
      (off = s.t1 - s.epr + 0x1000 → 0x101000 < off.toNat + 4 ∨ s.lenl.toNat < off.toNat + 4 →
        exec (checksumOf v) s = .fault .romOutsideBuffer) ∧
      (v = .x105 → off = s.s6 - 0xA0000004 + 0x554 →
        0x101000 < off.toNat + 4 ∨ s.lenl.toNat < off.toNat + 4 →
        (∃ w, memReadStream (s.t1 - s.epr + 0x1000) s = .next w) →
        exec (checksumOf v) s = .fault .romOutsideBuffer)

/-- R117 (`rom.w32`), R260, R290 (derived; the mark of a run is the model's own, log entry 7, and that a write of what is
already there sets no mark is its choice, log entry 24): the host's word write puts the four bytes in big-endian order,
leaves every other byte and every register alone, and marks the run exactly when one is in progress and a byte of its
buffer `ROM[0 .. LENL-1]` changes. -/
def Obligations.HostRomWordWritesFourBytes : Prop :=
  ∀ (s : State) (off w : Word) (rest : List HostAction),
    s.script = .romWord off w :: rest → s.rom.wf → off.toNat + 4 ≤ s.romStorage →
    ∃ (m : Memory) (mark : Bool), step s = .next { s with script := rest, rom := m, tainted := mark } ∧
      m.word off.toNat = w ∧
      (∀ a, a < off.toNat ∨ off.toNat + 4 ≤ a → m.read a = s.rom.read a) ∧
      (mark = true ↔ s.tainted = true ∨ s.busy = true ∧ ∃ a < s.lenl.toNat, m.read a ≠ s.rom.read a)

/-- R117 (`rom.fill`), R260, R290 (derived; log entries 9 and 28 for the image's unlisted bytes, 7, 24 and 29 for the mark
of a run): the host's byte write changes one byte; the host's load of an image of `size` bytes leaves the listed bytes
inside it as listed, every other byte 0, and `size` bytes connected. No register changes. The run is marked exactly when
one is in progress and a byte of its buffer `ROM[0 .. LENL-1]`, or how many of them are connected, changes. -/
def Obligations.HostLoadsTheBuffer : Prop :=
  ∀ (s : State) (rest : List HostAction), s.rom.wf →
    (∀ (off : Word) (b : Byte), s.script = .romByte off b :: rest → off.toNat + 1 ≤ s.romStorage →
      ∃ (m : Memory) (mark : Bool), step s = .next { s with script := rest, rom := m, tainted := mark } ∧
        m.read off.toNat = b ∧ (∀ a, a ≠ off.toNat → m.read a = s.rom.read a) ∧
        (mark = true ↔ s.tainted = true ∨
          s.busy = true ∧ off.toNat < s.lenl.toNat ∧ s.rom.read off.toNat ≠ b)) ∧
    (∀ (size : Nat) (image : List Host.Cell), s.script = .romFill size image :: rest →
      ∃ (m : Memory) (mark : Bool), step s = .next { s with
          script := rest, rom := m, romStorage := size, tainted := mark } ∧
        (∀ a, (∀ c ∈ image, c.1 ≠ a) ∨ size ≤ a → m.read a = 0) ∧
        (image.Pairwise (fun c d => c.1 < d.1) → ∀ c ∈ image, c.1 < size → m.read c.1 = c.2) ∧
        (mark = true ↔ s.tainted = true ∨ s.busy = true ∧
          ((∃ a < s.lenl.toNat, m.read a ≠ s.rom.read a) ∨
            min size s.lenl.toNat ≠ min s.romStorage s.lenl.toNat)))

/-- R262: the patch puts `word0` and `word1` big-endian at 0x10 to 0x17 and leaves all other bytes unchanged, applying it
twice gives the same contents as once, and it changes no later checksum of any variant. -/
def Obligations.PatchIsIdempotentAndHarmless : Prop :=
  ∀ (m : Memory) (w0 w1 : Word), m.wf →
    (m.patch w0 w1).word 0x10 = w0 ∧ (m.patch w0 w1).word 0x14 = w1 ∧
    (∀ a, a < 0x10 ∨ 0x18 ≤ a → (m.patch w0 w1).read a = m.read a) ∧
    (m.patch w0 w1).patch w0 w1 = m.patch w0 w1 ∧
    ∀ (v : Variant) (len : Word), refChecksum (m.patch w0 w1) len v = refChecksum m len v

/-! ### Reset -/

/-- R280, R281 (derived; that the host's remaining turns and its last read are as before is the model's choice, log
entries 11 and 17): the reset input, in any phase and with any run in progress: `IDLE`, every host register 0; the ROM
buffer, the host's remaining turns and its last read are as before. -/
def Obligations.ResetInputClearsHostRegisters : Prop :=
  ∀ (s : State) (rest : List HostAction), s.script = .reset :: rest →
    ∃ t, step s = .next t ∧ t.phase = .idle ∧ t.errcode = .noError ∧ t.romLen = 0 ∧ t.result0 = 0 ∧
      t.result1 = 0 ∧ t.detect = 0 ∧ t.aliasReg = 0 ∧ t.rom = s.rom ∧ t.romStorage = s.romStorage ∧
      t.script = rest ∧ t.rdata = s.rdata

/-- R280, R36 (the reset column): after reset every host register reads 0, at every offset of the window, and the block
stays there with no host turn (R283). The hidden registers' values are the model's (log entry 5) and are not stated. -/
def Obligations.ResetStateReadsZero : Prop :=
  State.reset.phase = .idle ∧ (∀ off : Offset, readReg off State.reset = 0) ∧
  State.reset.observe = ⟨0, 0, 0, 0, 0⟩ ∧ step State.reset = .next State.reset

/-! ### Translations -/

/-- R78: the main-stream translation is `addr - epr + 0x1000` modulo 2^32, and in the loop the offset read is
`0x1000 + t0`, whatever the entrypoint word holds. -/
def Obligations.MainStreamOffset : Prop :=
  (∀ epr addr : Word, (romOffMain epr addr).toNat = (addr.toNat + (2 ^ 32 - epr.toNat) + 0x1000) % 2 ^ 32) ∧
  (∀ s : State, Inv s → s.phase = .ckLoop → (romOffMain s.epr s.t1).toNat = 0x1000 + s.t0.toNat)

/-- R79, R156 (C6): from 0xA0000200 the second-stream pointer takes the 64 values 0xA0000200 + 4 j in a cycle, and the
offsets read are 0x750 to 0x84C. -/
def Obligations.X105PointerCycles : Prop :=
  ∀ j : Nat,
    x105Next^[j] 0xA0000200 = 0xA0000200 + BitVec.ofNat 32 (4 * (j % 64)) ∧
    (romOffX105 (x105Next^[j] 0xA0000200)).toNat = 0x750 + 4 * (j % 64)

/-! ### Invariants and whole-machine rules -/

/-- The invariant holds at reset. -/
def Obligations.ResetMeetsTheInvariant : Prop := Inv State.reset

/-- Every step keeps the invariant: the ROM contents stay canonical and inside the storage, `CODE` is nonzero exactly in
`ERROR` (R39), `DETECT` holds a value the block writes (R42, R44, R107), no result shows early or after an error (R41,
R249, R292), the latched operation fits the phase (R33), and the loop's counter, cursor and pointer agree (R34, R78,
R158). -/
def Obligations.StepKeepsTheInvariant : Prop :=
  ∀ s t : State, Inv s → step s = .next t → Inv t

/-- R75, R82: from every state that meets the invariant no step faults: no read leaves the buffer, and the sequencer is
never without its command. -/
def Obligations.NoFaultUnderTheInvariant : Prop :=
  ∀ (s : State) (f : Fault), Inv s → step s ≠ .fault f

/-- R295: from every state that meets the invariant, with a run in progress, the whole buffer connected and no host turn
pending, the run ends in `DONE` or `ERROR` within the step count of R294. -/
def Obligations.EveryRunEnds : Prop :=
  ∀ s : State, Inv s → s.busy = true → s.script = [] → s.lenl.toNat ≤ s.romStorage →
    ∃ n t, 1 ≤ n ∧ n ≤ 0x40002 ∧ RunsTo n s t ∧ (t.phase = .done ∨ t.phase = .error)

/-- R118, R260 (derived; the bound counts one pass of `wait` with its block step as one step, the model's choice, log
entry 12): the host's `wait` ends. Waiting on a run in progress, with the whole buffer connected, leads to the
host's next turn in `DONE` or `ERROR`, with that `STATUS` as the value read. -/
def Obligations.WaitEnds : Prop :=
  ∀ (s : State) (rest : List HostAction), Inv s → s.busy = true → s.script = .wait :: rest →
    s.lenl.toNat ≤ s.romStorage →
    ∃ n t, n ≤ 0x40003 ∧ RunsTo n s t ∧ t.script = rest ∧
      ((t.phase = .done ∧ t.rdata = 2) ∨ (t.phase = .error ∧ t.rdata = 3))

/-- R31 (its "written only by" clause): a step that changes a working register is the block's turn (no host turn pending,
an idle turn or the wait loop: log entries 11 and 12) in `CK_INIT` or `CK_LOOP`, or the reset input. -/
def Obligations.WorkRegsWrittenByTheEngineOnly : Prop :=
  ∀ s t : State, step s = .next t → t.workRegs ≠ s.workRegs →
    ((s.phase = .ckInit ∨ s.phase = .ckLoop) ∧
      (s.script = [] ∨ ∃ rest, s.script = .idle :: rest ∨ s.script = .wait :: rest)) ∨
    ∃ rest, s.script = .reset :: rest

/-- R70 (the block never writes the buffer), R33: the frame of all nine commands. Acceptance and every step of a run
leave every byte of the ROM buffer, the storage, `ROM_LEN`, `ALIAS`, the host's turns and its last read unchanged. -/
def Obligations.CommandsLeaveTheHostsStateAlone : Prop :=
  ∀ (i : Instr) (s t : State), exec i s = .next t →
    (∀ a, t.rom.read a = s.rom.read a) ∧ t.rom = s.rom ∧ t.romStorage = s.romStorage ∧ t.romLen = s.romLen ∧
      t.aliasReg = s.aliasReg ∧ t.script = s.script ∧ t.rdata = s.rdata

/-- R222: the frame of the detector's commands. `DETECT_IPL3`, `DETECT_ROM` and `RESOLVE_ALIAS` change none of the
engine's registers nor `VL`; a step of their run leaves `LENL`, `OPL` and, for a buffer the host left alone, the result
words unchanged. -/
def Obligations.DetectorFrame : Prop :=
  ∀ (i : Instr) (s t : State), i = .detectIpl3 ∨ i = .detectRom ∨ i = .resolveAlias → exec i s = .next t →
    t.workRegs = s.workRegs ∧ t.ep = s.ep ∧ t.epr = s.epr ∧ t.t0 = s.t0 ∧ t.t1 = s.t1 ∧ t.s6 = s.s6 ∧
      t.vl = s.vl ∧
      (s.busy = true → t.lenl = s.lenl ∧ t.opl = s.opl) ∧
      (s.busy = true → s.tainted = false → t.result0 = s.result0 ∧ t.result1 = s.result1)

/-- R33: a run reads the latched length, never the live `ROM_LEN`: in a busy phase no command's step depends on it. -/
def Obligations.RunsReadTheLatchedLength : Prop :=
  ∀ (i : Instr) (s : State) (n : Word), s.busy = true →
    exec i { s with romLen := n } = andThen (exec i s) fun t => .next { t with romLen := n }

/-- R292: from acceptance until the run's last step `RESULT0`, `RESULT1` and `DETECT` read 0. -/
def Obligations.EarlyReadsAreZero : Prop :=
  ∀ s : State, Inv s → s.busy = true → readReg 0x10 s = 0 ∧ readReg 0x14 s = 0 ∧ readReg 0x18 s = 0

/-- R41, R42, R86: `RESULT0`, `RESULT1`, `DETECT` and `ERRCODE` change only at acceptance (a write of `CMD`), in the step
that ends a run, or at reset. -/
def Obligations.ResultsChangeOnlyAtRunBoundaries : Prop :=
  ∀ s t : State, step s = .next t →
    t.result0 ≠ s.result0 ∨ t.result1 ≠ s.result1 ∨ t.detect ≠ s.detect ∨ t.errcode ≠ s.errcode →
    (s.busy = true ∧ (t.phase = .done ∨ t.phase = .error)) ∨
    (s.busy = false ∧ ((∃ c rest, s.script = .write 0x00 .w32 c :: rest) ∨
      ∃ addr c rest, s.script = .busWrite addr .w32 c :: rest ∧ addr = Config.ckbase)) ∨
    ∃ rest, s.script = .reset :: rest

/-- R250: the block leaves `ERROR` only by accepting a command or by reset. -/
def Obligations.ErrorIsLeftByCommandOrReset : Prop :=
  ∀ s t : State, s.phase = .error → step s = .next t → t.phase ≠ .error →
    (∃ c i rest, s.script = .write 0x00 .w32 c :: rest ∧ decode c = .legal i) ∨
    (∃ c i rest, s.script = .busWrite Config.ckbase .w32 c :: rest ∧ decode c = .legal i) ∨
    ∃ rest, s.script = .reset :: rest

/-! ### Whole runs -/

/-- R166: the reference function. From acceptance on, the block's steps agree with it: a short buffer ends in
`BufferTooSmall` after one step with no results, and on any other the run is `DONE` after 0x40002 steps with the
function's two words, whatever the registers held before. -/
def Obligations.RunMatchesReferenceFunction : Prop :=
  ∀ (v : Variant) (s : State), s.busy = false → s.script = [] → 0x101000 ≤ s.romStorage →
    ∃ s1, exec (checksumOf v) s = .next s1 ∧
      match refChecksum s.rom s.romLen v with
      | none => ∃ t, RunsTo 1 s1 t ∧ t.phase = .error ∧ t.errcode = .bufferTooSmall ∧ t.result0 = 0 ∧ t.result1 = 0
      | some (w0, w1) =>
        ∃ t, RunsTo 0x40002 s1 t ∧ t.phase = .done ∧ t.errcode = .noError ∧ t.result0 = w0 ∧ t.result1 = w1 ∧
          t.detect = 0

/-- R294: step counts. An accepted `CHECKSUM` that passes its length check takes one step to `CK_LOOP`, 0x40000 steps
there and one in `CK_FINAL`, and is busy before each of the 0x40002; one that fails takes one; the three detector commands take one; a word rejected at acceptance takes none. -/
def Obligations.StepCountsAreExact : Prop :=
  (∀ (v : Variant) (s : State), s.phase = .ckInit → s.latched = some (checksumOf v) → s.script = [] →
    0x101000 ≤ s.romStorage →
    (0x101000 ≤ s.lenl.toNat →
      (∀ n < 0x40002, ∃ t, RunsTo n s t ∧ t.busy = true) ∧
      (∀ n, 1 ≤ n → n ≤ 0x40000 → ∃ t, RunsTo n s t ∧ t.phase = .ckLoop) ∧
      (∃ t, RunsTo 0x40001 s t ∧ t.phase = .ckFinal) ∧
      ∃ t, RunsTo 0x40002 s t ∧ t.phase = .done) ∧
    (s.lenl.toNat < 0x101000 → ∃ t, RunsTo 1 s t ∧ t.phase = .error)) ∧
  (∀ s : State, s.phase = .detHash → s.latched = some .detectIpl3 ∨ s.latched = some .detectRom → s.script = [] →
    0x1000 ≤ s.romStorage → ∃ t, RunsTo 1 s t ∧ (t.phase = .done ∨ t.phase = .error)) ∧
  (∀ s : State, s.phase = .alMap → s.latched = some .resolveAlias → s.script = [] →
    ∃ t, RunsTo 1 s t ∧ (t.phase = .done ∨ t.phase = .error)) ∧
  (∀ (c : Word) (s : State), s.busy = false → (∀ i, decode c ≠ .legal i) →
    ∃ t, writeCmd c s = .next t ∧ t.phase = .error)

/-- R169: the closed forms of four registers at the end of the loop, with sums over the integers: after `CK_INIT` and
0x40000 iterations the block is in `CK_FINAL` with the sum, the count of crossings of multiples of 2^32, the XOR and the
sum of rotations of the words read. -/
def Obligations.ClosedFormsAfterTheLoop : Prop :=
  ∀ (v : Variant) (s : State), s.phase = .ckInit → s.latched = some (checksumOf v) → s.script = [] →
    0x101000 ≤ s.lenl.toNat → 0x101000 ≤ s.romStorage →
    let acc := Config.seedOf v * Config.magicOf v + 1
    let word := fun i : Nat => s.rom.word (0x1000 + 4 * i)
    let total := acc.toNat + sumOver word 0x40000
    ∃ t, RunsTo 0x40001 s t ∧ t.phase = .ckFinal ∧
      t.a3 = BitVec.ofNat 32 total ∧
      t.t2 = BitVec.ofNat 32 (acc.toNat + total / 2 ^ 32) ∧
      t.t3 = acc ^^^ xorOver word 0x40000 ∧
      t.s0 = BitVec.ofNat 32
        (acc.toNat + sumOver (fun i => (word i).rotateLeft ((word i).toNat % 32)) 0x40000)

/-- R171 (its example, V-G1; R140): on a buffer whose checksummed window is all zero, `CHECKSUM.6102_7101` ends in
`DONE` with the words 0xF8CA4DDC and 0x303A4DDC, from every state with no run in progress. -/
def Obligations.GoldenVectorOf6102 : Prop :=
  ∀ s : State, s.busy = false → s.script = [] → 0x101000 ≤ s.romLen.toNat → 0x101000 ≤ s.romStorage →
    (∀ a, 0x1000 ≤ a → a < 0x101000 → s.rom.read a = 0) →
    ∃ s1 t, exec .checksum6102_7101 s = .next s1 ∧ RunsTo 0x40002 s1 t ∧ t.phase = .done ∧
      t.result0 = 0xF8CA4DDC ∧ t.result1 = 0x303A4DDC

/-- R170, R172 to R175 (their examples): the reference words of an all-zero window for the start values that the
candidate parameters give. The start value is an argument: nothing here says the candidates are right. -/
def Obligations.GoldenVectorsOfCandidates : Prop :=
  ∀ m : Memory, (∀ a, 0x1000 ≤ a → a < 0x101000 → m.read a = 0) →
    refWordsFrom .v6101 m 0xF8CA4DDC = (0xF8CA4DDC, 0x303A4DDC) ∧
    refWordsFrom .v7102 m 0xF8CA4DDC = (0xF8CA4DDC, 0x303A4DDC) ∧
    refWordsFrom .x103 m 0xA3886759 = (0xA3886759, 0x40EC6759) ∧
    refWordsFrom .x106 m 0x1FEA617A = (0x04100F9E, 0x89F80F9E) ∧
    ((∀ a, 0x750 ≤ a → a < 0x850 → m.read a = 0) →
      refWordsFrom .x105 m 0xDF26F436 = (0xDF26F436, 0xDF26F436))

/-- R81, R165: two runs of one command on buffers with the same checksummed window (for `X105` the same second window
too) end with the same words, whatever else differs: the entrypoint word, the header words, the bytes beyond, the length,
and everything the registers held before. -/
def Obligations.ResultsDependOnTheWindowOnly : Prop :=
  ∀ (v : Variant) (s s' : State),
    s.phase = .ckInit → s.latched = some (checksumOf v) → s.script = [] → s.tainted = false →
    0x101000 ≤ s.lenl.toNat → 0x101000 ≤ s.romStorage →
    s'.phase = .ckInit → s'.latched = some (checksumOf v) → s'.script = [] → s'.tainted = false →
    0x101000 ≤ s'.lenl.toNat → 0x101000 ≤ s'.romStorage →
    (∀ a, 0x1000 ≤ a → a < 0x101000 → s.rom.read a = s'.rom.read a) →
    (v = .x105 → ∀ a, 0x750 ≤ a → a < 0x850 → s.rom.read a = s'.rom.read a) →
    ∃ t t', RunsTo 0x40002 s t ∧ RunsTo 0x40002 s' t' ∧ t.result0 = t'.result0 ∧ t.result1 = t'.result1

/-- R176: variants of the same feed and combiner give equal words on every buffer when they start from equal seeds and
magics. -/
def Obligations.DefaultVariantsAgree : Prop :=
  ∀ (u v : Variant) (m : Memory) (acc : Word),
    u = .v6101 ∨ u = .v6102_7101 ∨ u = .v7102 → v = .v6101 ∨ v = .v6102_7101 ∨ v = .v7102 →
      refWordsFrom u m acc = refWordsFrom v m acc
end

