-- ==== Sys2Proof/Laws/Decode.lean ====
section
/-! SUPPORT. Laws of the variant codes and of the command word's fields. -/

namespace Sys2Proof

@[simp] theorem variantOfCode_variantCode (v : Variant) : variantOfCode (variantCode v) = some v := by
  cases v <;> rfl

theorem variantCode_injective {u v : Variant} (h : variantCode u = variantCode v) : u = v := by
  simpa using congrArg variantOfCode h

/-- A code names a variant exactly when it is that variant's code (R106). -/
theorem variantOfCode_eq_some {k : BitVec 4} {v : Variant} : variantOfCode k = some v ↔ k = variantCode v := by
  have key : ∀ k : BitVec 4, variantOfCode k = some v ↔ k = variantCode v := by cases v <;> decide
  exact key k

/-- A code names no variant exactly when it is 6 or more (R107). -/
theorem variantOfCode_eq_none {k : BitVec 4} : variantOfCode k = none ↔ 6 ≤ k.toNat := by
  have key : ∀ k : BitVec 4, variantOfCode k = none ↔ 6 ≤ k.toNat := by decide
  exact key k

theorem checksumOf_injective {u v : Variant} (h : checksumOf u = checksumOf v) : u = v := by
  revert h; cases u <;> cases v <;> simp [checksumOf]

/-- The fields of a word laid out from fields are those fields (R100). -/
@[simp] theorem fieldsOfWord_wordOfFields (f : CommandFields) : fieldsOfWord (wordOfFields f) = f := by
  obtain ⟨op, vsel, rsvd⟩ := f
  simp only [fieldsOfWord, wordOfFields, CommandFields.mk.injEq]
  refine ⟨?_, ?_, ?_⟩
  · ext i hi
    rw [BitVec.getElem_extractLsb', BitVec.getLsbD_append, if_pos (by omega), Nat.zero_add]
    exact BitVec.getLsbD_eq_getElem hi
  · ext i hi
    rw [BitVec.getElem_extractLsb', BitVec.getLsbD_append, if_neg (by omega), BitVec.getLsbD_append,
      if_pos (by omega), Nat.add_sub_cancel_left]
    exact BitVec.getLsbD_eq_getElem hi
  · ext i hi
    rw [BitVec.getElem_extractLsb', BitVec.getLsbD_append, if_neg (by omega), BitVec.getLsbD_append,
      if_neg (by omega), show 8 + i - 4 - 4 = i by omega]
    exact BitVec.getLsbD_eq_getElem hi

/-- A word is laid out from its fields (R100). -/
@[simp] theorem wordOfFields_fieldsOfWord (c : Word) : wordOfFields (fieldsOfWord c) = c := by
  simp only [fieldsOfWord, wordOfFields]
  refine BitVec.eq_of_getLsbD_eq fun i hi => ?_
  rw [BitVec.getLsbD_append, BitVec.getLsbD_append]
  by_cases h4 : i < 4
  · rw [if_pos h4, BitVec.getLsbD_extractLsb', decide_eq_true h4, Bool.true_and, Nat.zero_add]
  · rw [if_neg h4]
    by_cases h8 : i - 4 < 4
    · rw [if_pos h8, BitVec.getLsbD_extractLsb', decide_eq_true h8, Bool.true_and,
        show 4 + (i - 4) = i by omega]
    · rw [if_neg h8, BitVec.getLsbD_extractLsb', decide_eq_true (by omega : i - 4 - 4 < 24), Bool.true_and,
        show 8 + (i - 4 - 4) = i by omega]

/-- Two words with the same fields are the same word. -/
theorem eq_of_fieldsOfWord_eq {c d : Word} (h : fieldsOfWord c = fieldsOfWord d) : c = d := by
  rw [← wordOfFields_fieldsOfWord c, h, wordOfFields_fieldsOfWord]

@[simp] theorem opOf_checksumOf (v : Variant) : opOf (checksumOf v) = 1 := by cases v <;> rfl

@[simp] theorem vselOf_checksumOf (v : Variant) : vselOf (checksumOf v) = variantCode v := by cases v <;> rfl

/-- A `CHECKSUM` command is that of some variant, or the command is one of the other three. -/
theorem instr_cases (i : Instr) :
    (∃ v, i = checksumOf v) ∨ i = .detectIpl3 ∨ i = .detectRom ∨ i = .resolveAlias := by
  cases i
  · exact .inl ⟨.v6101, rfl⟩
  · exact .inl ⟨.v6102_7101, rfl⟩
  · exact .inl ⟨.v7102, rfl⟩
  · exact .inl ⟨.x103, rfl⟩
  · exact .inl ⟨.x105, rfl⟩
  · exact .inl ⟨.x106, rfl⟩
  · simp
  · simp
  · simp

end Sys2Proof
end

