-- ==== Sys2Proof/Laws/Memory.lean ====
section
/-! SUPPORT. The ROM buffer's contents as data: what a write leaves to read, that every operation keeps the canonical
form and stays inside the storage connected, and that canonical contents with equal bytes are equal. -/

namespace Sys2Proof.Machine

@[simp] theorem Memory.read_nil (a : Nat) : Memory.read [] a = 0 := rfl

theorem Memory.read_cons (k : Nat) (v : Byte) (m : Memory) (a : Nat) :
    Memory.read ((k, v) :: m) a = if a = k then v else Memory.read m a := rfl

/-- An offset below every listed one reads 0. -/
theorem Memory.read_eq_zero_of_lt {m : Memory} {a : Nat} (h : ∀ c ∈ m, a < c.1) : m.read a = 0 := by
  induction m with
  | nil => rfl
  | cons c m ih =>
    obtain ⟨k, v⟩ := c
    have hk : a < k := h (k, v) (by simp)
    rw [Memory.read_cons, if_neg (by omega), ih fun c hc => h c (by simp [hc])]

/-- The cells after a write are the old ones and perhaps the written offset. -/
theorem Memory.mem_write {m : Memory} {a : Nat} {b : Byte} {c : Host.Cell} (h : c ∈ m.write a b) :
    c ∈ m ∨ (c = (a, b) ∧ b ≠ 0) := by
  induction m with
  | nil => unfold Memory.write at h; split at h <;> simp_all
  | cons d m ih =>
    obtain ⟨k, v⟩ := d
    unfold Memory.write at h
    split at h
    · split at h <;> simp_all; tauto
    · split at h
      · split at h <;> simp_all; tauto
      · rcases List.mem_cons.1 h with h | h
        · exact .inl (by simp [h])
        · exact (ih h).imp_left fun h => by simp [h]

/-- A write keeps the canonical form. -/
theorem Memory.wf_write {m : Memory} (hm : m.wf) (a : Nat) (b : Byte) : (m.write a b).wf := by
  induction m with
  | nil => unfold Memory.write; split <;> simp_all [Memory.wf]
  | cons d m ih =>
    obtain ⟨k, v⟩ := d
    obtain ⟨hp, hz⟩ := hm
    obtain ⟨hk, hp⟩ := List.pairwise_cons.1 hp
    have hm : Memory.wf m := ⟨hp, fun c hc => hz c (by simp [hc])⟩
    have hv : v ≠ 0 := hz (k, v) (by simp)
    unfold Memory.write
    split
    · rename_i hak
      split
      · exact ⟨List.pairwise_cons.2 ⟨hk, hp⟩, hz⟩
      · rename_i hb
        refine ⟨List.pairwise_cons.2 ⟨?_, List.pairwise_cons.2 ⟨hk, hp⟩⟩, ?_⟩
        · rintro c hc
          rcases List.mem_cons.1 hc with rfl | hc
          · exact hak
          · exact Nat.lt_trans hak (hk c hc)
        · rintro c hc
          rcases List.mem_cons.1 hc with rfl | hc
          · exact hb
          · exact hz c hc
    · split
      · rename_i hak
        subst hak
        split
        · exact hm
        · rename_i hb
          refine ⟨List.pairwise_cons.2 ⟨hk, hm.1⟩, ?_⟩
          rintro c hc
          rcases List.mem_cons.1 hc with rfl | hc
          · exact hb
          · exact hm.2 c hc
      · rename_i h1 h2
        obtain ⟨hp', hz'⟩ := ih hm
        refine ⟨List.pairwise_cons.2 ⟨?_, hp'⟩, ?_⟩
        · intro c hc
          rcases Memory.mem_write hc with hc | ⟨rfl, -⟩
          · exact hk c hc
          · show k < a
            omega
        · rintro c hc
          rcases List.mem_cons.1 hc with rfl | hc
          · exact hv
          · exact hz' c hc

/-- What reads see after a write to canonical contents. -/
theorem Memory.read_write {m : Memory} (hm : m.wf) (a : Nat) (b : Byte) (x : Nat) :
    (m.write a b).read x = if x = a then b else m.read x := by
  induction m with
  | nil =>
    unfold Memory.write
    split
    · simp_all
    · simp [Memory.read_cons]
  | cons d m ih =>
    obtain ⟨k, v⟩ := d
    obtain ⟨hp, hz⟩ := hm
    obtain ⟨hk, hp⟩ := List.pairwise_cons.1 hp
    have hm : Memory.wf m := ⟨hp, fun c hc => hz c (by simp [hc])⟩
    unfold Memory.write
    split
    · rename_i hak
      have h0 : Memory.read ((k, v) :: m) a = 0 := by
        refine Memory.read_eq_zero_of_lt fun c hc => ?_
        rcases List.mem_cons.1 hc with rfl | hc
        · exact hak
        · exact Nat.lt_trans hak (hk c hc)
      split
      · rename_i hb
        split
        · rename_i hx
          rw [hx, h0, hb]
        · rfl
      · exact Memory.read_cons a b _ x
    · split
      · rename_i hak
        subst hak
        have h0 : Memory.read m a = 0 := Memory.read_eq_zero_of_lt fun c hc => hk c hc
        split
        · rename_i hb
          rw [Memory.read_cons]
          split
          · rename_i hx
            rw [hx, h0, hb]
          · rfl
        · rw [Memory.read_cons, Memory.read_cons]
          split <;> simp_all
      · rename_i h1 h2
        rw [Memory.read_cons, Memory.read_cons, ih hm]
        split
        · rename_i hx
          rw [if_neg (by omega)]
        · rfl

theorem Memory.read_write_same {m : Memory} (hm : m.wf) (a : Nat) (b : Byte) : (m.write a b).read a = b := by
  rw [Memory.read_write hm, if_pos rfl]

theorem Memory.read_write_other {m : Memory} (hm : m.wf) {a x : Nat} (b : Byte) (h : x ≠ a) :
    (m.write a b).read x = m.read x := by
  rw [Memory.read_write hm, if_neg h]

theorem Memory.wf_nil : Memory.wf [] := by simp [Memory.wf]

/-- A word write keeps the canonical form. -/
theorem Memory.wf_writeWord {m : Memory} (hm : m.wf) (a : Nat) (w : Word) : (m.writeWord a w).wf :=
  Memory.wf_write (Memory.wf_write (Memory.wf_write (Memory.wf_write hm _ _) _ _) _ _) _ _

/-- What reads see after a word write (R72). -/
theorem Memory.read_writeWord {m : Memory} (hm : m.wf) (a : Nat) (w : Word) (x : Nat) :
    (m.writeWord a w).read x = if a ≤ x ∧ x < a + 4 then byteOfWord w (x - a) else m.read x := by
  have h1 := Memory.wf_write hm a (byteOfWord w 0)
  have h2 := Memory.wf_write h1 (a + 1) (byteOfWord w 1)
  have h3 := Memory.wf_write h2 (a + 2) (byteOfWord w 2)
  unfold Memory.writeWord
  rw [Memory.read_write h3, Memory.read_write h2, Memory.read_write h1, Memory.read_write hm]
  by_cases h : a ≤ x ∧ x < a + 4
  · rw [if_pos h]
    obtain ⟨j, rfl⟩ : ∃ j, x = a + j := ⟨x - a, by omega⟩
    have hj : j < 4 := by omega
    interval_cases j <;> simp
  · rw [if_neg h, if_neg (by omega), if_neg (by omega), if_neg (by omega), if_neg (by omega)]

/-- The contents of an image are canonical. -/
theorem Memory.wf_ofImage (size : Nat) (image : List Host.Cell) : (Memory.ofImage size image).wf := by
  have key : ∀ (l : List Host.Cell) (m : Memory), m.wf →
      (l.foldl (fun m c => if c.1 < size then Memory.write m c.1 c.2 else m) m).wf := by
    intro l
    induction l with
    | nil => exact fun m hm => hm
    | cons c l ih =>
      intro m hm
      refine ih _ ?_
      show Memory.wf (if c.1 < size then Memory.write m c.1 c.2 else m)
      split
      · exact Memory.wf_write hm _ _
      · exact hm
  exact key image [] Memory.wf_nil

/-- Loading cells leaves every offset alone that none of them has, or that is outside the image. -/
theorem Memory.read_load_other (size a : Nat) (l : List Host.Cell) (h : (∀ c ∈ l, c.1 ≠ a) ∨ size ≤ a) (m : Memory)
    (hm : m.wf) :
    Memory.read (l.foldl (fun m c => if c.1 < size then Memory.write m c.1 c.2 else m) m) a = m.read a := by
  induction l generalizing m with
  | nil => rfl
  | cons c l ih =>
    have hl : (∀ d ∈ l, d.1 ≠ a) ∨ size ≤ a := h.imp (fun h d hd => h d (List.mem_cons_of_mem _ hd)) id
    rw [List.foldl_cons]
    by_cases hc : c.1 < size
    · rw [if_pos hc, ih hl _ (Memory.wf_write hm _ _)]
      refine Memory.read_write_other hm _ ?_
      rcases h with h | h
      · exact fun e => h c List.mem_cons_self e.symm
      · omega
    · rw [if_neg hc, ih hl _ hm]

/-- An offset that no cell has, or outside the image, reads 0. -/
theorem Memory.read_ofImage_other {size a : Nat} {image : List Host.Cell}
    (h : (∀ c ∈ image, c.1 ≠ a) ∨ size ≤ a) : (Memory.ofImage size image).read a = 0 :=
  Memory.read_load_other size a image h [] Memory.wf_nil

/-- A listed cell inside the image reads as listed. -/
theorem Memory.read_ofImage_mem {size : Nat} {image : List Host.Cell} (h : image.Pairwise fun c d => c.1 < d.1)
    {c : Host.Cell} (hc : c ∈ image) (hs : c.1 < size) : (Memory.ofImage size image).read c.1 = c.2 := by
  have key : ∀ (l : List Host.Cell) (m : Memory), m.wf → l.Pairwise (fun c d => c.1 < d.1) → c ∈ l →
      Memory.read (l.foldl (fun m c => if c.1 < size then Memory.write m c.1 c.2 else m) m) c.1 = c.2 := by
    intro l
    induction l with
    | nil => exact fun _ _ _ h => by cases h
    | cons d l ih =>
      intro m hm hp hmem
      rw [List.foldl_cons]
      obtain ⟨hd, hl⟩ := List.pairwise_cons.1 hp
      rcases List.mem_cons.1 hmem with rfl | hmem
      · rw [if_pos hs, Memory.read_load_other size _ l (.inl fun e he => by have := hd e he; omega) _
          (Memory.wf_write hm _ _), Memory.read_write_same hm]
      · by_cases hds : d.1 < size
        · rw [if_pos hds]; exact ih _ (Memory.wf_write hm _ _) hl hmem
        · rw [if_neg hds]; exact ih _ hm hl hmem
  exact key image [] Memory.wf_nil h hc

/-- Contents inside a storage. -/
abbrev Memory.inside (m : Memory) (n : Nat) : Prop := ∀ c ∈ m, c.1 < n

theorem Memory.inside_write {m : Memory} {n a : Nat} (hm : m.inside n) (ha : a < n) (b : Byte) :
    (m.write a b).inside n := by
  intro c hc
  rcases Memory.mem_write hc with hc | ⟨rfl, -⟩
  · exact hm c hc
  · exact ha

theorem Memory.inside_writeWord {m : Memory} {n a : Nat} (hm : m.inside n) (ha : a + 4 ≤ n) (w : Word) :
    (m.writeWord a w).inside n :=
  Memory.inside_write (Memory.inside_write (Memory.inside_write (Memory.inside_write hm (by omega) _) (by omega) _)
    (by omega) _) (by omega) _

theorem Memory.inside_ofImage (size : Nat) (image : List Host.Cell) : (Memory.ofImage size image).inside size := by
  have key : ∀ (l : List Host.Cell) (m : Memory), m.inside size →
      Memory.inside (l.foldl (fun m c => if c.1 < size then Memory.write m c.1 c.2 else m) m) size := by
    intro l
    induction l with
    | nil => exact fun m hm => hm
    | cons c l ih =>
      intro m hm
      refine ih _ ?_
      show Memory.inside (if c.1 < size then Memory.write m c.1 c.2 else m) size
      split
      · rename_i hc
        exact Memory.inside_write hm hc _
      · exact hm
  exact key image [] (by simp)

/-- Canonical contents with the same bytes are the same data. -/
theorem Memory.ext_of_read {m n : Memory} (hm : m.wf) (hn : n.wf) (h : ∀ a, m.read a = n.read a) : m = n := by
  induction m generalizing n with
  | nil =>
    cases n with
    | nil => rfl
    | cons d n =>
      obtain ⟨k, v⟩ := d
      have := h k
      rw [Memory.read_nil, Memory.read_cons, if_pos rfl] at this
      exact absurd this.symm (hn.2 (k, v) (by simp))
  | cons c m ih =>
    obtain ⟨k, v⟩ := c
    obtain ⟨hk, hp⟩ := List.pairwise_cons.1 hm.1
    have hv : v ≠ 0 := hm.2 (k, v) (by simp)
    cases n with
    | nil =>
      have := h k
      rw [Memory.read_nil, Memory.read_cons, if_pos rfl] at this
      exact absurd this hv
    | cons d n =>
      obtain ⟨l, u⟩ := d
      obtain ⟨hl, hq⟩ := List.pairwise_cons.1 hn.1
      have hu : u ≠ 0 := hn.2 (l, u) (by simp)
      have hkl : k = l := by
        rcases Nat.lt_trichotomy k l with hlt | heq | hgt
        · have h0 : Memory.read ((l, u) :: n) k = 0 := by
            refine Memory.read_eq_zero_of_lt fun c hc => ?_
            rcases List.mem_cons.1 hc with rfl | hc
            · exact hlt
            · exact Nat.lt_trans hlt (hl c hc)
          have := h k
          rw [h0, Memory.read_cons, if_pos rfl] at this
          exact absurd this hv
        · exact heq
        · have h0 : Memory.read ((k, v) :: m) l = 0 := by
            refine Memory.read_eq_zero_of_lt fun c hc => ?_
            rcases List.mem_cons.1 hc with rfl | hc
            · exact hgt
            · exact Nat.lt_trans hgt (hk c hc)
          have := h l
          rw [h0, Memory.read_cons, if_pos rfl] at this
          exact absurd this.symm hu
      subst hkl
      have hvu : v = u := by simpa [Memory.read_cons] using h k
      subst hvu
      have hmn : m = n := by
        refine ih ⟨hp, fun c hc => hm.2 c (by simp [hc])⟩ ⟨hq, fun c hc => hn.2 c (by simp [hc])⟩ fun a => ?_
        have ha := h a
        rw [Memory.read_cons, Memory.read_cons] at ha
        by_cases hak : a = k
        · subst hak
          rw [Memory.read_eq_zero_of_lt fun c hc => hk c hc, Memory.read_eq_zero_of_lt fun c hc => hl c hc]
        · rwa [if_neg hak, if_neg hak] at ha
      rw [hmn]

/-- What reads see after the patch (R262). -/
theorem Memory.read_patch {m : Memory} (hm : m.wf) (w0 w1 : Word) (x : Nat) :
    (m.patch w0 w1).read x =
      if 0x10 ≤ x ∧ x < 0x14 then byteOfWord w0 (x - 0x10)
      else if 0x14 ≤ x ∧ x < 0x18 then byteOfWord w1 (x - 0x14) else m.read x := by
  unfold Memory.patch
  rw [Memory.read_writeWord (Memory.wf_writeWord hm _ _), Memory.read_writeWord hm]
  by_cases h : 0x10 ≤ x ∧ x < 0x14
  · rw [if_pos h, if_neg (by omega), if_pos (by omega)]
  · by_cases h' : 0x14 ≤ x ∧ x < 0x18
    · rw [if_neg h, if_pos h', if_neg h]
    · rw [if_neg h, if_neg h', if_neg (by omega)]

theorem Memory.wf_patch {m : Memory} (hm : m.wf) (w0 w1 : Word) : (m.patch w0 w1).wf :=
  Memory.wf_writeWord (Memory.wf_writeWord hm _ _) _ _

/-- Restricting canonical contents keeps the form. -/
theorem Memory.wf_within {m : Memory} (hm : m.wf) (n : Nat) : (m.within n).wf :=
  ⟨hm.1.filter _, fun c hc => hm.2 c (List.mem_filter.1 hc).1⟩

/-- Restricted contents read as before below the bound and as nothing beyond. -/
theorem Memory.read_within (m : Memory) (n a : Nat) : (m.within n).read a = if a < n then m.read a else 0 := by
  induction m with
  | nil => simp [Memory.within, Memory.read]
  | cons c m ih =>
    rw [Memory.within, List.filter_cons]
    by_cases hc : c.1 < n
    · rw [if_pos (by simpa using hc), Memory.read_cons, Memory.read_cons]
      by_cases ha : a = c.1
      · rw [if_pos ha, if_pos ha, if_pos (by omega)]
      · rw [if_neg ha, if_neg ha]; exact ih
    · rw [if_neg (by simpa using hc), Memory.read_cons]
      by_cases ha : a = c.1
      · have hn : ¬ a < n := by omega
        have := ih
        rw [if_neg hn] at this ⊢
        exact this
      · rw [if_neg ha]; exact ih

/-- Canonical contents have the same first `n` bytes exactly when they read the same there. -/
theorem Memory.within_eq_iff {m m' : Memory} (hm : m.wf) (hm' : m'.wf) (n : Nat) :
    m.within n = m'.within n ↔ ∀ a < n, m.read a = m'.read a := by
  constructor
  · intro h a ha
    have := congrArg (fun x => Memory.read x a) h
    simpa [Memory.read_within, ha] using this
  · intro h
    refine Memory.ext_of_read (Memory.wf_within hm n) (Memory.wf_within hm' n) fun a => ?_
    rw [Memory.read_within, Memory.read_within]
    split
    · exact h a ‹_›
    · rfl

/-- New contents change the buffer exactly when a byte below `LENL` or the count of connected ones differs (R290). -/
theorem changesBuffer_iff {m : Memory} {n : Nat} {s : State} (hm : m.wf) (hs : s.rom.wf) :
    changesBuffer m n s = true ↔
      (∃ a < s.lenl.toNat, m.read a ≠ s.rom.read a) ∨ min n s.lenl.toNat ≠ min s.romStorage s.lenl.toNat := by
  rw [changesBuffer, Bool.or_eq_true, bne_iff_ne, bne_iff_ne, ne_eq, Memory.within_eq_iff hm hs]
  simp

/-- A host that writes at or beyond `LENL` only leaves the run's buffer as it was (R70, U11). -/
theorem changesBuffer_beyond {m : Memory} {s : State} (hm : m.wf) (hs : s.rom.wf)
    (h : ∀ a < s.lenl.toNat, m.read a = s.rom.read a) : changesBuffer m s.romStorage s = false := by
  rw [← Bool.not_eq_true, changesBuffer_iff hm hs]
  rintro (⟨a, ha, hne⟩ | hne)
  · exact hne (h a ha)
  · exact hne rfl

/-- A word depends on its four bytes only. -/
theorem Memory.word_congr {m n : Memory} {a b : Nat} (h : ∀ k < 4, m.read (a + k) = n.read (b + k)) :
    m.word a = n.word b := by
  have h0 := h 0 (by omega)
  have h1 := h 1 (by omega)
  have h2 := h 2 (by omega)
  have h3 := h 3 (by omega)
  rw [Nat.add_zero, Nat.add_zero] at h0
  unfold Memory.word
  rw [h0, h1, h2, h3]

/-- A byte string depends on its own bytes only. -/
theorem Memory.bytes_congr {m n : Memory} {a b k : Nat} (h : ∀ i < k, m.read (a + i) = n.read (b + i)) :
    m.bytes a k = n.bytes b k :=
  List.map_congr_left fun i hi => h i (List.mem_range.1 hi)

@[simp] theorem Memory.length_bytes (m : Memory) (a k : Nat) : (m.bytes a k).length = k := by
  simp [Memory.bytes]

/-- Reading back the word just written (R72). -/
theorem Memory.word_writeWord {m : Memory} (hm : m.wf) (a : Nat) (w : Word) : (m.writeWord a w).word a = w := by
  rw [Memory.word]
  simp only [Memory.read_writeWord hm]
  rw [if_pos (by omega), if_pos (by omega), if_pos (by omega), if_pos (by omega)]
  rw [show a - a = 0 by omega, show a + 1 - a = 1 by omega, show a + 2 - a = 2 by omega,
    show a + 3 - a = 3 by omega]
  apply BitVec.eq_of_getLsbD_eq
  intro i hi
  simp only [bigEndian, byteOfWord, BitVec.getLsbD_or, BitVec.getLsbD_shiftLeft, BitVec.getLsbD_setWidth,
    BitVec.getLsbD_ushiftRight]
  by_cases h8 : i < 8
  · simp [h8, show i < 16 by omega, show i < 24 by omega, show i < 32 by omega]
  · by_cases h16 : i < 16
    · simp [h8, h16, show i < 24 by omega, show i < 32 by omega, show i - 8 < 8 by omega,
        show i - 8 < 32 by omega, show 8 + (i - 8) = i by omega]
    · by_cases h24 : i < 24
      · simp [h8, h16, h24, show i < 32 by omega, show ¬ i - 8 < 8 by omega, show i - 16 < 32 by omega,
          show i - 16 < 8 by omega, show 16 + (i - 16) = i by omega]
      · simp [h8, h16, h24, show i < 32 by omega, show ¬ i - 8 < 8 by omega, show ¬ i - 16 < 8 by omega,
          show i - 24 < 8 by omega, show i - 24 < 32 by omega, show 24 + (i - 24) = i by omega]

/-- A word of four zero bytes. -/
theorem Memory.word_of_zero {m : Memory} {a : Nat} (h : ∀ k < 4, m.read (a + k) = 0) : m.word a = 0 := by
  have h0 := h 0 (by omega)
  rw [Nat.add_zero] at h0
  unfold Memory.word
  rw [h0, h 1 (by omega), h 2 (by omega), h 3 (by omega)]; rfl

/-- The reset contents are canonical. -/
theorem reset_rom_wf : State.reset.rom.wf := Memory.wf_nil

end Sys2Proof.Machine
end

