-- ==== Sys2Proof/Laws/State.lean ====
section
/-! SUPPORT. What each named update of the state does to each field: one lemma per field per update. -/

namespace Sys2Proof.Machine

variable (s : State)

/-! ### `beginCommand`: acceptance's first statements (R240) -/

@[simp] theorem beginCommand_phase : (beginCommand s).phase = s.phase := rfl
@[simp] theorem beginCommand_a3 : (beginCommand s).a3 = s.a3 := rfl
@[simp] theorem beginCommand_t2 : (beginCommand s).t2 = s.t2 := rfl
@[simp] theorem beginCommand_t3 : (beginCommand s).t3 = s.t3 := rfl
@[simp] theorem beginCommand_s0 : (beginCommand s).s0 = s.s0 := rfl
@[simp] theorem beginCommand_a2 : (beginCommand s).a2 = s.a2 := rfl
@[simp] theorem beginCommand_t4 : (beginCommand s).t4 = s.t4 := rfl
@[simp] theorem beginCommand_ep : (beginCommand s).ep = s.ep := rfl
@[simp] theorem beginCommand_epr : (beginCommand s).epr = s.epr := rfl
@[simp] theorem beginCommand_t0 : (beginCommand s).t0 = s.t0 := rfl
@[simp] theorem beginCommand_t1 : (beginCommand s).t1 = s.t1 := rfl
@[simp] theorem beginCommand_s6 : (beginCommand s).s6 = s.s6 := rfl
@[simp] theorem beginCommand_opl : (beginCommand s).opl = s.opl := rfl
@[simp] theorem beginCommand_vl : (beginCommand s).vl = s.vl := rfl
@[simp] theorem beginCommand_lenl : (beginCommand s).lenl = s.romLen := rfl
@[simp] theorem beginCommand_errcode : (beginCommand s).errcode = .noError := rfl
@[simp] theorem beginCommand_romLen : (beginCommand s).romLen = s.romLen := rfl
@[simp] theorem beginCommand_result0 : (beginCommand s).result0 = 0 := rfl
@[simp] theorem beginCommand_result1 : (beginCommand s).result1 = 0 := rfl
@[simp] theorem beginCommand_detect : (beginCommand s).detect = 0 := rfl
@[simp] theorem beginCommand_aliasReg : (beginCommand s).aliasReg = s.aliasReg := rfl
@[simp] theorem beginCommand_rom : (beginCommand s).rom = s.rom := rfl
@[simp] theorem beginCommand_romStorage : (beginCommand s).romStorage = s.romStorage := rfl
@[simp] theorem beginCommand_script : (beginCommand s).script = s.script := rfl
@[simp] theorem beginCommand_rdata : (beginCommand s).rdata = s.rdata := rfl
@[simp] theorem beginCommand_tainted : (beginCommand s).tainted = false := rfl
@[simp] theorem beginCommand_draws : (beginCommand s).draws = s.draws := rfl

/-! ### `latchChecksum`: acceptance of a `CHECKSUM` (R240) -/

@[simp] theorem latchChecksum_phase (v : Variant) : (latchChecksum v s).phase = .ckInit := rfl
@[simp] theorem latchChecksum_a3 (v : Variant) : (latchChecksum v s).a3 = s.a3 := rfl
@[simp] theorem latchChecksum_t2 (v : Variant) : (latchChecksum v s).t2 = s.t2 := rfl
@[simp] theorem latchChecksum_t3 (v : Variant) : (latchChecksum v s).t3 = s.t3 := rfl
@[simp] theorem latchChecksum_s0 (v : Variant) : (latchChecksum v s).s0 = s.s0 := rfl
@[simp] theorem latchChecksum_a2 (v : Variant) : (latchChecksum v s).a2 = s.a2 := rfl
@[simp] theorem latchChecksum_t4 (v : Variant) : (latchChecksum v s).t4 = s.t4 := rfl
@[simp] theorem latchChecksum_ep (v : Variant) : (latchChecksum v s).ep = s.ep := rfl
@[simp] theorem latchChecksum_epr (v : Variant) : (latchChecksum v s).epr = s.epr := rfl
@[simp] theorem latchChecksum_t0 (v : Variant) : (latchChecksum v s).t0 = s.t0 := rfl
@[simp] theorem latchChecksum_t1 (v : Variant) : (latchChecksum v s).t1 = s.t1 := rfl
@[simp] theorem latchChecksum_s6 (v : Variant) : (latchChecksum v s).s6 = s.s6 := rfl
@[simp] theorem latchChecksum_opl (v : Variant) : (latchChecksum v s).opl = 1 := rfl
@[simp] theorem latchChecksum_vl (v : Variant) : (latchChecksum v s).vl = variantCode v := rfl
@[simp] theorem latchChecksum_lenl (v : Variant) : (latchChecksum v s).lenl = s.lenl := rfl
@[simp] theorem latchChecksum_errcode (v : Variant) : (latchChecksum v s).errcode = s.errcode := rfl
@[simp] theorem latchChecksum_romLen (v : Variant) : (latchChecksum v s).romLen = s.romLen := rfl
@[simp] theorem latchChecksum_result0 (v : Variant) : (latchChecksum v s).result0 = s.result0 := rfl
@[simp] theorem latchChecksum_result1 (v : Variant) : (latchChecksum v s).result1 = s.result1 := rfl
@[simp] theorem latchChecksum_detect (v : Variant) : (latchChecksum v s).detect = s.detect := rfl
@[simp] theorem latchChecksum_aliasReg (v : Variant) : (latchChecksum v s).aliasReg = s.aliasReg := rfl
@[simp] theorem latchChecksum_rom (v : Variant) : (latchChecksum v s).rom = s.rom := rfl
@[simp] theorem latchChecksum_romStorage (v : Variant) : (latchChecksum v s).romStorage = s.romStorage := rfl
@[simp] theorem latchChecksum_script (v : Variant) : (latchChecksum v s).script = s.script := rfl
@[simp] theorem latchChecksum_rdata (v : Variant) : (latchChecksum v s).rdata = s.rdata := rfl
@[simp] theorem latchChecksum_tainted (v : Variant) : (latchChecksum v s).tainted = s.tainted := rfl
@[simp] theorem latchChecksum_draws (v : Variant) : (latchChecksum v s).draws = s.draws := rfl

/-! ### `latchDetectIpl3`: acceptance of a `DETECT_IPL3` (R240) -/

@[simp] theorem latchDetectIpl3_phase : (latchDetectIpl3 s).phase = .detHash := rfl
@[simp] theorem latchDetectIpl3_a3 : (latchDetectIpl3 s).a3 = s.a3 := rfl
@[simp] theorem latchDetectIpl3_t2 : (latchDetectIpl3 s).t2 = s.t2 := rfl
@[simp] theorem latchDetectIpl3_t3 : (latchDetectIpl3 s).t3 = s.t3 := rfl
@[simp] theorem latchDetectIpl3_s0 : (latchDetectIpl3 s).s0 = s.s0 := rfl
@[simp] theorem latchDetectIpl3_a2 : (latchDetectIpl3 s).a2 = s.a2 := rfl
@[simp] theorem latchDetectIpl3_t4 : (latchDetectIpl3 s).t4 = s.t4 := rfl
@[simp] theorem latchDetectIpl3_ep : (latchDetectIpl3 s).ep = s.ep := rfl
@[simp] theorem latchDetectIpl3_epr : (latchDetectIpl3 s).epr = s.epr := rfl
@[simp] theorem latchDetectIpl3_t0 : (latchDetectIpl3 s).t0 = s.t0 := rfl
@[simp] theorem latchDetectIpl3_t1 : (latchDetectIpl3 s).t1 = s.t1 := rfl
@[simp] theorem latchDetectIpl3_s6 : (latchDetectIpl3 s).s6 = s.s6 := rfl
@[simp] theorem latchDetectIpl3_opl : (latchDetectIpl3 s).opl = 2 := rfl
@[simp] theorem latchDetectIpl3_vl : (latchDetectIpl3 s).vl = s.vl := rfl
@[simp] theorem latchDetectIpl3_lenl : (latchDetectIpl3 s).lenl = s.lenl := rfl
@[simp] theorem latchDetectIpl3_errcode : (latchDetectIpl3 s).errcode = s.errcode := rfl
@[simp] theorem latchDetectIpl3_romLen : (latchDetectIpl3 s).romLen = s.romLen := rfl
@[simp] theorem latchDetectIpl3_result0 : (latchDetectIpl3 s).result0 = s.result0 := rfl
@[simp] theorem latchDetectIpl3_result1 : (latchDetectIpl3 s).result1 = s.result1 := rfl
@[simp] theorem latchDetectIpl3_detect : (latchDetectIpl3 s).detect = s.detect := rfl
@[simp] theorem latchDetectIpl3_aliasReg : (latchDetectIpl3 s).aliasReg = s.aliasReg := rfl
@[simp] theorem latchDetectIpl3_rom : (latchDetectIpl3 s).rom = s.rom := rfl
@[simp] theorem latchDetectIpl3_romStorage : (latchDetectIpl3 s).romStorage = s.romStorage := rfl
@[simp] theorem latchDetectIpl3_script : (latchDetectIpl3 s).script = s.script := rfl
@[simp] theorem latchDetectIpl3_rdata : (latchDetectIpl3 s).rdata = s.rdata := rfl
@[simp] theorem latchDetectIpl3_tainted : (latchDetectIpl3 s).tainted = s.tainted := rfl
@[simp] theorem latchDetectIpl3_draws : (latchDetectIpl3 s).draws = s.draws := rfl

/-! ### `latchDetectRom`: acceptance of a `DETECT_ROM` (R240) -/

@[simp] theorem latchDetectRom_phase : (latchDetectRom s).phase = .detHash := rfl
@[simp] theorem latchDetectRom_a3 : (latchDetectRom s).a3 = s.a3 := rfl
@[simp] theorem latchDetectRom_t2 : (latchDetectRom s).t2 = s.t2 := rfl
@[simp] theorem latchDetectRom_t3 : (latchDetectRom s).t3 = s.t3 := rfl
@[simp] theorem latchDetectRom_s0 : (latchDetectRom s).s0 = s.s0 := rfl
@[simp] theorem latchDetectRom_a2 : (latchDetectRom s).a2 = s.a2 := rfl
@[simp] theorem latchDetectRom_t4 : (latchDetectRom s).t4 = s.t4 := rfl
@[simp] theorem latchDetectRom_ep : (latchDetectRom s).ep = s.ep := rfl
@[simp] theorem latchDetectRom_epr : (latchDetectRom s).epr = s.epr := rfl
@[simp] theorem latchDetectRom_t0 : (latchDetectRom s).t0 = s.t0 := rfl
@[simp] theorem latchDetectRom_t1 : (latchDetectRom s).t1 = s.t1 := rfl
@[simp] theorem latchDetectRom_s6 : (latchDetectRom s).s6 = s.s6 := rfl
@[simp] theorem latchDetectRom_opl : (latchDetectRom s).opl = 3 := rfl
@[simp] theorem latchDetectRom_vl : (latchDetectRom s).vl = s.vl := rfl
@[simp] theorem latchDetectRom_lenl : (latchDetectRom s).lenl = s.lenl := rfl
@[simp] theorem latchDetectRom_errcode : (latchDetectRom s).errcode = s.errcode := rfl
@[simp] theorem latchDetectRom_romLen : (latchDetectRom s).romLen = s.romLen := rfl
@[simp] theorem latchDetectRom_result0 : (latchDetectRom s).result0 = s.result0 := rfl
@[simp] theorem latchDetectRom_result1 : (latchDetectRom s).result1 = s.result1 := rfl
@[simp] theorem latchDetectRom_detect : (latchDetectRom s).detect = s.detect := rfl
@[simp] theorem latchDetectRom_aliasReg : (latchDetectRom s).aliasReg = s.aliasReg := rfl
@[simp] theorem latchDetectRom_rom : (latchDetectRom s).rom = s.rom := rfl
@[simp] theorem latchDetectRom_romStorage : (latchDetectRom s).romStorage = s.romStorage := rfl
@[simp] theorem latchDetectRom_script : (latchDetectRom s).script = s.script := rfl
@[simp] theorem latchDetectRom_rdata : (latchDetectRom s).rdata = s.rdata := rfl
@[simp] theorem latchDetectRom_tainted : (latchDetectRom s).tainted = s.tainted := rfl
@[simp] theorem latchDetectRom_draws : (latchDetectRom s).draws = s.draws := rfl

/-! ### `latchResolveAlias`: acceptance of a `RESOLVE_ALIAS` (R240) -/

@[simp] theorem latchResolveAlias_phase : (latchResolveAlias s).phase = .alMap := rfl
@[simp] theorem latchResolveAlias_a3 : (latchResolveAlias s).a3 = s.a3 := rfl
@[simp] theorem latchResolveAlias_t2 : (latchResolveAlias s).t2 = s.t2 := rfl
@[simp] theorem latchResolveAlias_t3 : (latchResolveAlias s).t3 = s.t3 := rfl
@[simp] theorem latchResolveAlias_s0 : (latchResolveAlias s).s0 = s.s0 := rfl
@[simp] theorem latchResolveAlias_a2 : (latchResolveAlias s).a2 = s.a2 := rfl
@[simp] theorem latchResolveAlias_t4 : (latchResolveAlias s).t4 = s.t4 := rfl
@[simp] theorem latchResolveAlias_ep : (latchResolveAlias s).ep = s.ep := rfl
@[simp] theorem latchResolveAlias_epr : (latchResolveAlias s).epr = s.epr := rfl
@[simp] theorem latchResolveAlias_t0 : (latchResolveAlias s).t0 = s.t0 := rfl
@[simp] theorem latchResolveAlias_t1 : (latchResolveAlias s).t1 = s.t1 := rfl
@[simp] theorem latchResolveAlias_s6 : (latchResolveAlias s).s6 = s.s6 := rfl
@[simp] theorem latchResolveAlias_opl : (latchResolveAlias s).opl = 4 := rfl
@[simp] theorem latchResolveAlias_vl : (latchResolveAlias s).vl = s.vl := rfl
@[simp] theorem latchResolveAlias_lenl : (latchResolveAlias s).lenl = s.lenl := rfl
@[simp] theorem latchResolveAlias_errcode : (latchResolveAlias s).errcode = s.errcode := rfl
@[simp] theorem latchResolveAlias_romLen : (latchResolveAlias s).romLen = s.romLen := rfl
@[simp] theorem latchResolveAlias_result0 : (latchResolveAlias s).result0 = s.result0 := rfl
@[simp] theorem latchResolveAlias_result1 : (latchResolveAlias s).result1 = s.result1 := rfl
@[simp] theorem latchResolveAlias_detect : (latchResolveAlias s).detect = s.detect := rfl
@[simp] theorem latchResolveAlias_aliasReg : (latchResolveAlias s).aliasReg = s.aliasReg := rfl
@[simp] theorem latchResolveAlias_rom : (latchResolveAlias s).rom = s.rom := rfl
@[simp] theorem latchResolveAlias_romStorage : (latchResolveAlias s).romStorage = s.romStorage := rfl
@[simp] theorem latchResolveAlias_script : (latchResolveAlias s).script = s.script := rfl
@[simp] theorem latchResolveAlias_rdata : (latchResolveAlias s).rdata = s.rdata := rfl
@[simp] theorem latchResolveAlias_tainted : (latchResolveAlias s).tainted = s.tainted := rfl
@[simp] theorem latchResolveAlias_draws : (latchResolveAlias s).draws = s.draws := rfl

/-! ### `endRun`: the end of a run (R290) -/

@[simp] theorem endRun_phase : (endRun s).phase = s.phase := rfl
@[simp] theorem endRun_a3 : (endRun s).a3 = s.a3 := rfl
@[simp] theorem endRun_t2 : (endRun s).t2 = s.t2 := rfl
@[simp] theorem endRun_t3 : (endRun s).t3 = s.t3 := rfl
@[simp] theorem endRun_s0 : (endRun s).s0 = s.s0 := rfl
@[simp] theorem endRun_a2 : (endRun s).a2 = s.a2 := rfl
@[simp] theorem endRun_t4 : (endRun s).t4 = s.t4 := rfl
@[simp] theorem endRun_ep : (endRun s).ep = s.ep := rfl
@[simp] theorem endRun_epr : (endRun s).epr = s.epr := rfl
@[simp] theorem endRun_t0 : (endRun s).t0 = s.t0 := rfl
@[simp] theorem endRun_t1 : (endRun s).t1 = s.t1 := rfl
@[simp] theorem endRun_s6 : (endRun s).s6 = s.s6 := rfl
@[simp] theorem endRun_opl : (endRun s).opl = s.opl := rfl
@[simp] theorem endRun_vl : (endRun s).vl = s.vl := rfl
@[simp] theorem endRun_lenl : (endRun s).lenl = s.lenl := rfl
@[simp] theorem endRun_errcode : (endRun s).errcode = s.errcode := rfl
@[simp] theorem endRun_romLen : (endRun s).romLen = s.romLen := rfl
@[simp] theorem endRun_result0 : (endRun s).result0 = if s.tainted then Config.freeWord s.draws else s.result0 := rfl
@[simp] theorem endRun_result1 :
    (endRun s).result1 = if s.tainted then Config.freeWord (s.draws + 1) else s.result1 := rfl
@[simp] theorem endRun_detect :
    (endRun s).detect = if s.tainted then detectWord (Config.freeDetect (s.draws + 2)) else s.detect := rfl
@[simp] theorem endRun_aliasReg : (endRun s).aliasReg = s.aliasReg := rfl
@[simp] theorem endRun_rom : (endRun s).rom = s.rom := rfl
@[simp] theorem endRun_romStorage : (endRun s).romStorage = s.romStorage := rfl
@[simp] theorem endRun_script : (endRun s).script = s.script := rfl
@[simp] theorem endRun_rdata : (endRun s).rdata = s.rdata := rfl
@[simp] theorem endRun_tainted : (endRun s).tainted = s.tainted := rfl
@[simp] theorem endRun_draws : (endRun s).draws = if s.tainted then s.draws + 3 else s.draws := rfl

/-! ### `raiseError`: raising an error (R241) -/

@[simp] theorem raiseError_phase (e : ErrCode) : (raiseError e s).phase = .error := rfl
@[simp] theorem raiseError_a3 (e : ErrCode) : (raiseError e s).a3 = s.a3 := rfl
@[simp] theorem raiseError_t2 (e : ErrCode) : (raiseError e s).t2 = s.t2 := rfl
@[simp] theorem raiseError_t3 (e : ErrCode) : (raiseError e s).t3 = s.t3 := rfl
@[simp] theorem raiseError_s0 (e : ErrCode) : (raiseError e s).s0 = s.s0 := rfl
@[simp] theorem raiseError_a2 (e : ErrCode) : (raiseError e s).a2 = s.a2 := rfl
@[simp] theorem raiseError_t4 (e : ErrCode) : (raiseError e s).t4 = s.t4 := rfl
@[simp] theorem raiseError_ep (e : ErrCode) : (raiseError e s).ep = s.ep := rfl
@[simp] theorem raiseError_epr (e : ErrCode) : (raiseError e s).epr = s.epr := rfl
@[simp] theorem raiseError_t0 (e : ErrCode) : (raiseError e s).t0 = s.t0 := rfl
@[simp] theorem raiseError_t1 (e : ErrCode) : (raiseError e s).t1 = s.t1 := rfl
@[simp] theorem raiseError_s6 (e : ErrCode) : (raiseError e s).s6 = s.s6 := rfl
@[simp] theorem raiseError_opl (e : ErrCode) : (raiseError e s).opl = s.opl := rfl
@[simp] theorem raiseError_vl (e : ErrCode) : (raiseError e s).vl = s.vl := rfl
@[simp] theorem raiseError_lenl (e : ErrCode) : (raiseError e s).lenl = s.lenl := rfl
@[simp] theorem raiseError_errcode (e : ErrCode) : (raiseError e s).errcode = e := rfl
@[simp] theorem raiseError_romLen (e : ErrCode) : (raiseError e s).romLen = s.romLen := rfl
@[simp] theorem raiseError_result0 (e : ErrCode) :
    (raiseError e s).result0 = if s.tainted then Config.freeWord s.draws else s.result0 := rfl
@[simp] theorem raiseError_result1 (e : ErrCode) :
    (raiseError e s).result1 = if s.tainted then Config.freeWord (s.draws + 1) else s.result1 := rfl
@[simp] theorem raiseError_detect (e : ErrCode) :
    (raiseError e s).detect = if s.tainted then detectWord (Config.freeDetect (s.draws + 2)) else s.detect := rfl
@[simp] theorem raiseError_aliasReg (e : ErrCode) : (raiseError e s).aliasReg = s.aliasReg := rfl
@[simp] theorem raiseError_rom (e : ErrCode) : (raiseError e s).rom = s.rom := rfl
@[simp] theorem raiseError_romStorage (e : ErrCode) : (raiseError e s).romStorage = s.romStorage := rfl
@[simp] theorem raiseError_script (e : ErrCode) : (raiseError e s).script = s.script := rfl
@[simp] theorem raiseError_rdata (e : ErrCode) : (raiseError e s).rdata = s.rdata := rfl
@[simp] theorem raiseError_tainted (e : ErrCode) : (raiseError e s).tainted = s.tainted := rfl
@[simp] theorem raiseError_draws (e : ErrCode) :
    (raiseError e s).draws = if s.tainted then s.draws + 3 else s.draws := rfl

/-! ### `writeResults`: the end of a checksum run (R164) -/

@[simp] theorem writeResults_phase (w0 w1 : Word) : (writeResults w0 w1 s).phase = .done := rfl
@[simp] theorem writeResults_a3 (w0 w1 : Word) : (writeResults w0 w1 s).a3 = s.a3 := rfl
@[simp] theorem writeResults_t2 (w0 w1 : Word) : (writeResults w0 w1 s).t2 = s.t2 := rfl
@[simp] theorem writeResults_t3 (w0 w1 : Word) : (writeResults w0 w1 s).t3 = s.t3 := rfl
@[simp] theorem writeResults_s0 (w0 w1 : Word) : (writeResults w0 w1 s).s0 = s.s0 := rfl
@[simp] theorem writeResults_a2 (w0 w1 : Word) : (writeResults w0 w1 s).a2 = s.a2 := rfl
@[simp] theorem writeResults_t4 (w0 w1 : Word) : (writeResults w0 w1 s).t4 = s.t4 := rfl
@[simp] theorem writeResults_ep (w0 w1 : Word) : (writeResults w0 w1 s).ep = s.ep := rfl
@[simp] theorem writeResults_epr (w0 w1 : Word) : (writeResults w0 w1 s).epr = s.epr := rfl
@[simp] theorem writeResults_t0 (w0 w1 : Word) : (writeResults w0 w1 s).t0 = s.t0 := rfl
@[simp] theorem writeResults_t1 (w0 w1 : Word) : (writeResults w0 w1 s).t1 = s.t1 := rfl
@[simp] theorem writeResults_s6 (w0 w1 : Word) : (writeResults w0 w1 s).s6 = s.s6 := rfl
@[simp] theorem writeResults_opl (w0 w1 : Word) : (writeResults w0 w1 s).opl = s.opl := rfl
@[simp] theorem writeResults_vl (w0 w1 : Word) : (writeResults w0 w1 s).vl = s.vl := rfl
@[simp] theorem writeResults_lenl (w0 w1 : Word) : (writeResults w0 w1 s).lenl = s.lenl := rfl
@[simp] theorem writeResults_errcode (w0 w1 : Word) : (writeResults w0 w1 s).errcode = .noError := rfl
@[simp] theorem writeResults_romLen (w0 w1 : Word) : (writeResults w0 w1 s).romLen = s.romLen := rfl
@[simp] theorem writeResults_result0 (w0 w1 : Word) :
    (writeResults w0 w1 s).result0 = if s.tainted then Config.freeWord s.draws else w0 := rfl
@[simp] theorem writeResults_result1 (w0 w1 : Word) :
    (writeResults w0 w1 s).result1 = if s.tainted then Config.freeWord (s.draws + 1) else w1 := rfl
@[simp] theorem writeResults_detect (w0 w1 : Word) :
    (writeResults w0 w1 s).detect = if s.tainted then detectWord (Config.freeDetect (s.draws + 2)) else s.detect := rfl
@[simp] theorem writeResults_aliasReg (w0 w1 : Word) : (writeResults w0 w1 s).aliasReg = s.aliasReg := rfl
@[simp] theorem writeResults_rom (w0 w1 : Word) : (writeResults w0 w1 s).rom = s.rom := rfl
@[simp] theorem writeResults_romStorage (w0 w1 : Word) : (writeResults w0 w1 s).romStorage = s.romStorage := rfl
@[simp] theorem writeResults_script (w0 w1 : Word) : (writeResults w0 w1 s).script = s.script := rfl
@[simp] theorem writeResults_rdata (w0 w1 : Word) : (writeResults w0 w1 s).rdata = s.rdata := rfl
@[simp] theorem writeResults_tainted (w0 w1 : Word) : (writeResults w0 w1 s).tainted = s.tainted := rfl
@[simp] theorem writeResults_draws (w0 w1 : Word) :
    (writeResults w0 w1 s).draws = if s.tainted then s.draws + 3 else s.draws := rfl

/-! ### `writeDetect`: the end of a detector run (R202) -/

@[simp] theorem writeDetect_phase (m : Option Variant) : (writeDetect m s).phase = .done := rfl
@[simp] theorem writeDetect_a3 (m : Option Variant) : (writeDetect m s).a3 = s.a3 := rfl
@[simp] theorem writeDetect_t2 (m : Option Variant) : (writeDetect m s).t2 = s.t2 := rfl
@[simp] theorem writeDetect_t3 (m : Option Variant) : (writeDetect m s).t3 = s.t3 := rfl
@[simp] theorem writeDetect_s0 (m : Option Variant) : (writeDetect m s).s0 = s.s0 := rfl
@[simp] theorem writeDetect_a2 (m : Option Variant) : (writeDetect m s).a2 = s.a2 := rfl
@[simp] theorem writeDetect_t4 (m : Option Variant) : (writeDetect m s).t4 = s.t4 := rfl
@[simp] theorem writeDetect_ep (m : Option Variant) : (writeDetect m s).ep = s.ep := rfl
@[simp] theorem writeDetect_epr (m : Option Variant) : (writeDetect m s).epr = s.epr := rfl
@[simp] theorem writeDetect_t0 (m : Option Variant) : (writeDetect m s).t0 = s.t0 := rfl
@[simp] theorem writeDetect_t1 (m : Option Variant) : (writeDetect m s).t1 = s.t1 := rfl
@[simp] theorem writeDetect_s6 (m : Option Variant) : (writeDetect m s).s6 = s.s6 := rfl
@[simp] theorem writeDetect_opl (m : Option Variant) : (writeDetect m s).opl = s.opl := rfl
@[simp] theorem writeDetect_vl (m : Option Variant) : (writeDetect m s).vl = s.vl := rfl
@[simp] theorem writeDetect_lenl (m : Option Variant) : (writeDetect m s).lenl = s.lenl := rfl
@[simp] theorem writeDetect_errcode (m : Option Variant) : (writeDetect m s).errcode = .noError := rfl
@[simp] theorem writeDetect_romLen (m : Option Variant) : (writeDetect m s).romLen = s.romLen := rfl
@[simp] theorem writeDetect_result0 (m : Option Variant) :
    (writeDetect m s).result0 = if s.tainted then Config.freeWord s.draws else s.result0 := rfl
@[simp] theorem writeDetect_result1 (m : Option Variant) :
    (writeDetect m s).result1 = if s.tainted then Config.freeWord (s.draws + 1) else s.result1 := rfl
@[simp] theorem writeDetect_detect (m : Option Variant) :
    (writeDetect m s).detect = if s.tainted then detectWord (Config.freeDetect (s.draws + 2)) else detectWord m := rfl
@[simp] theorem writeDetect_aliasReg (m : Option Variant) : (writeDetect m s).aliasReg = s.aliasReg := rfl
@[simp] theorem writeDetect_rom (m : Option Variant) : (writeDetect m s).rom = s.rom := rfl
@[simp] theorem writeDetect_romStorage (m : Option Variant) : (writeDetect m s).romStorage = s.romStorage := rfl
@[simp] theorem writeDetect_script (m : Option Variant) : (writeDetect m s).script = s.script := rfl
@[simp] theorem writeDetect_rdata (m : Option Variant) : (writeDetect m s).rdata = s.rdata := rfl
@[simp] theorem writeDetect_tainted (m : Option Variant) : (writeDetect m s).tainted = s.tainted := rfl
@[simp] theorem writeDetect_draws (m : Option Variant) :
    (writeDetect m s).draws = if s.tainted then s.draws + 3 else s.draws := rfl

/-! ### `seedRegisters`: `CK_INIT` (R142 to R144) -/

@[simp] theorem seedRegisters_phase (v : Variant) (e : Word) : (seedRegisters v e s).phase = .ckLoop := rfl
@[simp] theorem seedRegisters_a3 (v : Variant) (e : Word) : (seedRegisters v e s).a3 = acc0 v := rfl
@[simp] theorem seedRegisters_t2 (v : Variant) (e : Word) : (seedRegisters v e s).t2 = acc0 v := rfl
@[simp] theorem seedRegisters_t3 (v : Variant) (e : Word) : (seedRegisters v e s).t3 = acc0 v := rfl
@[simp] theorem seedRegisters_s0 (v : Variant) (e : Word) : (seedRegisters v e s).s0 = acc0 v := rfl
@[simp] theorem seedRegisters_a2 (v : Variant) (e : Word) : (seedRegisters v e s).a2 = acc0 v := rfl
@[simp] theorem seedRegisters_t4 (v : Variant) (e : Word) : (seedRegisters v e s).t4 = acc0 v := rfl
@[simp] theorem seedRegisters_ep (v : Variant) (e : Word) : (seedRegisters v e s).ep = e := rfl
@[simp] theorem seedRegisters_epr (v : Variant) (e : Word) : (seedRegisters v e s).epr = e + epAdj v := rfl
@[simp] theorem seedRegisters_t0 (v : Variant) (e : Word) : (seedRegisters v e s).t0 = 0 := rfl
@[simp] theorem seedRegisters_t1 (v : Variant) (e : Word) : (seedRegisters v e s).t1 = e + epAdj v := rfl
@[simp] theorem seedRegisters_s6 (v : Variant) (e : Word) :
    (seedRegisters v e s).s6 = if v = .x105 then x105Ptr0 else s.s6 := rfl
@[simp] theorem seedRegisters_opl (v : Variant) (e : Word) : (seedRegisters v e s).opl = s.opl := rfl
@[simp] theorem seedRegisters_vl (v : Variant) (e : Word) : (seedRegisters v e s).vl = s.vl := rfl
@[simp] theorem seedRegisters_lenl (v : Variant) (e : Word) : (seedRegisters v e s).lenl = s.lenl := rfl
@[simp] theorem seedRegisters_errcode (v : Variant) (e : Word) : (seedRegisters v e s).errcode = s.errcode := rfl
@[simp] theorem seedRegisters_romLen (v : Variant) (e : Word) : (seedRegisters v e s).romLen = s.romLen := rfl
@[simp] theorem seedRegisters_result0 (v : Variant) (e : Word) : (seedRegisters v e s).result0 = s.result0 := rfl
@[simp] theorem seedRegisters_result1 (v : Variant) (e : Word) : (seedRegisters v e s).result1 = s.result1 := rfl
@[simp] theorem seedRegisters_detect (v : Variant) (e : Word) : (seedRegisters v e s).detect = s.detect := rfl
@[simp] theorem seedRegisters_aliasReg (v : Variant) (e : Word) : (seedRegisters v e s).aliasReg = s.aliasReg := rfl
@[simp] theorem seedRegisters_rom (v : Variant) (e : Word) : (seedRegisters v e s).rom = s.rom := rfl
@[simp] theorem seedRegisters_romStorage (v : Variant) (e : Word) :
    (seedRegisters v e s).romStorage = s.romStorage := rfl
@[simp] theorem seedRegisters_script (v : Variant) (e : Word) : (seedRegisters v e s).script = s.script := rfl
@[simp] theorem seedRegisters_rdata (v : Variant) (e : Word) : (seedRegisters v e s).rdata = s.rdata := rfl
@[simp] theorem seedRegisters_tainted (v : Variant) (e : Word) : (seedRegisters v e s).tainted = s.tainted := rfl
@[simp] theorem seedRegisters_draws (v : Variant) (e : Word) : (seedRegisters v e s).draws = s.draws := rfl

/-! ### `mixRegisters`: steps b to e of an iteration (R151 to R154) -/

@[simp] theorem mixRegisters_phase (w : Word) : (mixRegisters w s).phase = s.phase := rfl
@[simp] theorem mixRegisters_a3 (w : Word) : (mixRegisters w s).a3 = s.a3 + w := rfl
@[simp] theorem mixRegisters_t2 (w : Word) : (mixRegisters w s).t2 = if carryOf s.a3 w then s.t2 + 1 else s.t2 := rfl
@[simp] theorem mixRegisters_t3 (w : Word) : (mixRegisters w s).t3 = s.t3 ^^^ w := rfl
@[simp] theorem mixRegisters_s0 (w : Word) : (mixRegisters w s).s0 = s.s0 + mixedOf w := rfl
@[simp] theorem mixRegisters_a2 (w : Word) :
    (mixRegisters w s).a2 = if takeOf s.a2 w then ((s.a3 + w) ^^^ w) ^^^ s.a2 else s.a2 ^^^ mixedOf w := rfl
@[simp] theorem mixRegisters_t4 (w : Word) : (mixRegisters w s).t4 = s.t4 := rfl
@[simp] theorem mixRegisters_ep (w : Word) : (mixRegisters w s).ep = s.ep := rfl
@[simp] theorem mixRegisters_epr (w : Word) : (mixRegisters w s).epr = s.epr := rfl
@[simp] theorem mixRegisters_t0 (w : Word) : (mixRegisters w s).t0 = s.t0 := rfl
@[simp] theorem mixRegisters_t1 (w : Word) : (mixRegisters w s).t1 = s.t1 := rfl
@[simp] theorem mixRegisters_s6 (w : Word) : (mixRegisters w s).s6 = s.s6 := rfl
@[simp] theorem mixRegisters_opl (w : Word) : (mixRegisters w s).opl = s.opl := rfl
@[simp] theorem mixRegisters_vl (w : Word) : (mixRegisters w s).vl = s.vl := rfl
@[simp] theorem mixRegisters_lenl (w : Word) : (mixRegisters w s).lenl = s.lenl := rfl
@[simp] theorem mixRegisters_errcode (w : Word) : (mixRegisters w s).errcode = s.errcode := rfl
@[simp] theorem mixRegisters_romLen (w : Word) : (mixRegisters w s).romLen = s.romLen := rfl
@[simp] theorem mixRegisters_result0 (w : Word) : (mixRegisters w s).result0 = s.result0 := rfl
@[simp] theorem mixRegisters_result1 (w : Word) : (mixRegisters w s).result1 = s.result1 := rfl
@[simp] theorem mixRegisters_detect (w : Word) : (mixRegisters w s).detect = s.detect := rfl
@[simp] theorem mixRegisters_aliasReg (w : Word) : (mixRegisters w s).aliasReg = s.aliasReg := rfl
@[simp] theorem mixRegisters_rom (w : Word) : (mixRegisters w s).rom = s.rom := rfl
@[simp] theorem mixRegisters_romStorage (w : Word) : (mixRegisters w s).romStorage = s.romStorage := rfl
@[simp] theorem mixRegisters_script (w : Word) : (mixRegisters w s).script = s.script := rfl
@[simp] theorem mixRegisters_rdata (w : Word) : (mixRegisters w s).rdata = s.rdata := rfl
@[simp] theorem mixRegisters_tainted (w : Word) : (mixRegisters w s).tainted = s.tainted := rfl
@[simp] theorem mixRegisters_draws (w : Word) : (mixRegisters w s).draws = s.draws := rfl

/-! ### `advanceX105`: the second pointer's advance (R156) -/

@[simp] theorem advanceX105_phase : (advanceX105 s).phase = s.phase := rfl
@[simp] theorem advanceX105_a3 : (advanceX105 s).a3 = s.a3 := rfl
@[simp] theorem advanceX105_t2 : (advanceX105 s).t2 = s.t2 := rfl
@[simp] theorem advanceX105_t3 : (advanceX105 s).t3 = s.t3 := rfl
@[simp] theorem advanceX105_s0 : (advanceX105 s).s0 = s.s0 := rfl
@[simp] theorem advanceX105_a2 : (advanceX105 s).a2 = s.a2 := rfl
@[simp] theorem advanceX105_t4 : (advanceX105 s).t4 = s.t4 := rfl
@[simp] theorem advanceX105_ep : (advanceX105 s).ep = s.ep := rfl
@[simp] theorem advanceX105_epr : (advanceX105 s).epr = s.epr := rfl
@[simp] theorem advanceX105_t0 : (advanceX105 s).t0 = s.t0 := rfl
@[simp] theorem advanceX105_t1 : (advanceX105 s).t1 = s.t1 := rfl
@[simp] theorem advanceX105_s6 : (advanceX105 s).s6 = x105Next s.s6 := rfl
@[simp] theorem advanceX105_opl : (advanceX105 s).opl = s.opl := rfl
@[simp] theorem advanceX105_vl : (advanceX105 s).vl = s.vl := rfl
@[simp] theorem advanceX105_lenl : (advanceX105 s).lenl = s.lenl := rfl
@[simp] theorem advanceX105_errcode : (advanceX105 s).errcode = s.errcode := rfl
@[simp] theorem advanceX105_romLen : (advanceX105 s).romLen = s.romLen := rfl
@[simp] theorem advanceX105_result0 : (advanceX105 s).result0 = s.result0 := rfl
@[simp] theorem advanceX105_result1 : (advanceX105 s).result1 = s.result1 := rfl
@[simp] theorem advanceX105_detect : (advanceX105 s).detect = s.detect := rfl
@[simp] theorem advanceX105_aliasReg : (advanceX105 s).aliasReg = s.aliasReg := rfl
@[simp] theorem advanceX105_rom : (advanceX105 s).rom = s.rom := rfl
@[simp] theorem advanceX105_romStorage : (advanceX105 s).romStorage = s.romStorage := rfl
@[simp] theorem advanceX105_script : (advanceX105 s).script = s.script := rfl
@[simp] theorem advanceX105_rdata : (advanceX105 s).rdata = s.rdata := rfl
@[simp] theorem advanceX105_tainted : (advanceX105 s).tainted = s.tainted := rfl
@[simp] theorem advanceX105_draws : (advanceX105 s).draws = s.draws := rfl

/-! ### `feedAndAdvance`: step f (R157, R158) -/

@[simp] theorem feedAndAdvance_phase (feed : Word) :
    (feedAndAdvance feed s).phase = if s.t0 + 4 = ckBytes then .ckFinal else .ckLoop := rfl
@[simp] theorem feedAndAdvance_a3 (feed : Word) : (feedAndAdvance feed s).a3 = s.a3 := rfl
@[simp] theorem feedAndAdvance_t2 (feed : Word) : (feedAndAdvance feed s).t2 = s.t2 := rfl
@[simp] theorem feedAndAdvance_t3 (feed : Word) : (feedAndAdvance feed s).t3 = s.t3 := rfl
@[simp] theorem feedAndAdvance_s0 (feed : Word) : (feedAndAdvance feed s).s0 = s.s0 := rfl
@[simp] theorem feedAndAdvance_a2 (feed : Word) : (feedAndAdvance feed s).a2 = s.a2 := rfl
@[simp] theorem feedAndAdvance_t4 (feed : Word) : (feedAndAdvance feed s).t4 = s.t4 + feed := rfl
@[simp] theorem feedAndAdvance_ep (feed : Word) : (feedAndAdvance feed s).ep = s.ep := rfl
@[simp] theorem feedAndAdvance_epr (feed : Word) : (feedAndAdvance feed s).epr = s.epr := rfl
@[simp] theorem feedAndAdvance_t0 (feed : Word) : (feedAndAdvance feed s).t0 = s.t0 + 4 := rfl
@[simp] theorem feedAndAdvance_t1 (feed : Word) : (feedAndAdvance feed s).t1 = s.t1 + 4 := rfl
@[simp] theorem feedAndAdvance_s6 (feed : Word) : (feedAndAdvance feed s).s6 = s.s6 := rfl
@[simp] theorem feedAndAdvance_opl (feed : Word) : (feedAndAdvance feed s).opl = s.opl := rfl
@[simp] theorem feedAndAdvance_vl (feed : Word) : (feedAndAdvance feed s).vl = s.vl := rfl
@[simp] theorem feedAndAdvance_lenl (feed : Word) : (feedAndAdvance feed s).lenl = s.lenl := rfl
@[simp] theorem feedAndAdvance_errcode (feed : Word) : (feedAndAdvance feed s).errcode = s.errcode := rfl
@[simp] theorem feedAndAdvance_romLen (feed : Word) : (feedAndAdvance feed s).romLen = s.romLen := rfl
@[simp] theorem feedAndAdvance_result0 (feed : Word) : (feedAndAdvance feed s).result0 = s.result0 := rfl
@[simp] theorem feedAndAdvance_result1 (feed : Word) : (feedAndAdvance feed s).result1 = s.result1 := rfl
@[simp] theorem feedAndAdvance_detect (feed : Word) : (feedAndAdvance feed s).detect = s.detect := rfl
@[simp] theorem feedAndAdvance_aliasReg (feed : Word) : (feedAndAdvance feed s).aliasReg = s.aliasReg := rfl
@[simp] theorem feedAndAdvance_rom (feed : Word) : (feedAndAdvance feed s).rom = s.rom := rfl
@[simp] theorem feedAndAdvance_romStorage (feed : Word) : (feedAndAdvance feed s).romStorage = s.romStorage := rfl
@[simp] theorem feedAndAdvance_script (feed : Word) : (feedAndAdvance feed s).script = s.script := rfl
@[simp] theorem feedAndAdvance_rdata (feed : Word) : (feedAndAdvance feed s).rdata = s.rdata := rfl
@[simp] theorem feedAndAdvance_tainted (feed : Word) : (feedAndAdvance feed s).tainted = s.tainted := rfl
@[simp] theorem feedAndAdvance_draws (feed : Word) : (feedAndAdvance feed s).draws = s.draws := rfl

/-! ### `resetBlock`: the reset input (R280) -/

@[simp] theorem resetBlock_phase : (resetBlock s).phase = .idle := rfl
@[simp] theorem resetBlock_a3 : (resetBlock s).a3 = Config.freeWord s.draws := rfl
@[simp] theorem resetBlock_t2 : (resetBlock s).t2 = Config.freeWord (s.draws + 1) := rfl
@[simp] theorem resetBlock_t3 : (resetBlock s).t3 = Config.freeWord (s.draws + 2) := rfl
@[simp] theorem resetBlock_s0 : (resetBlock s).s0 = Config.freeWord (s.draws + 3) := rfl
@[simp] theorem resetBlock_a2 : (resetBlock s).a2 = Config.freeWord (s.draws + 4) := rfl
@[simp] theorem resetBlock_t4 : (resetBlock s).t4 = Config.freeWord (s.draws + 5) := rfl
@[simp] theorem resetBlock_ep : (resetBlock s).ep = Config.freeWord (s.draws + 6) := rfl
@[simp] theorem resetBlock_epr : (resetBlock s).epr = Config.freeWord (s.draws + 7) := rfl
@[simp] theorem resetBlock_t0 : (resetBlock s).t0 = Config.freeWord (s.draws + 8) := rfl
@[simp] theorem resetBlock_t1 : (resetBlock s).t1 = Config.freeWord (s.draws + 9) := rfl
@[simp] theorem resetBlock_s6 : (resetBlock s).s6 = Config.freeWord (s.draws + 10) := rfl
@[simp] theorem resetBlock_opl : (resetBlock s).opl = (Config.freeWord (s.draws + 11)).setWidth 4 := rfl
@[simp] theorem resetBlock_vl : (resetBlock s).vl = (Config.freeWord (s.draws + 12)).setWidth 4 := rfl
@[simp] theorem resetBlock_lenl : (resetBlock s).lenl = Config.freeWord (s.draws + 13) := rfl
@[simp] theorem resetBlock_errcode : (resetBlock s).errcode = .noError := rfl
@[simp] theorem resetBlock_romLen : (resetBlock s).romLen = 0 := rfl
@[simp] theorem resetBlock_result0 : (resetBlock s).result0 = 0 := rfl
@[simp] theorem resetBlock_result1 : (resetBlock s).result1 = 0 := rfl
@[simp] theorem resetBlock_detect : (resetBlock s).detect = 0 := rfl
@[simp] theorem resetBlock_aliasReg : (resetBlock s).aliasReg = 0 := rfl
@[simp] theorem resetBlock_rom : (resetBlock s).rom = s.rom := rfl
@[simp] theorem resetBlock_romStorage : (resetBlock s).romStorage = s.romStorage := rfl
@[simp] theorem resetBlock_script : (resetBlock s).script = s.script := rfl
@[simp] theorem resetBlock_rdata : (resetBlock s).rdata = s.rdata := rfl
@[simp] theorem resetBlock_tainted : (resetBlock s).tainted = false := rfl
@[simp] theorem resetBlock_draws : (resetBlock s).draws = s.draws + 14 := rfl

/-! ### `setRom`: new contents of the ROM buffer (R290) -/

@[simp] theorem setRom_phase (m : Memory) (n : Nat) : (setRom m n s).phase = s.phase := rfl
@[simp] theorem setRom_a3 (m : Memory) (n : Nat) : (setRom m n s).a3 = s.a3 := rfl
@[simp] theorem setRom_t2 (m : Memory) (n : Nat) : (setRom m n s).t2 = s.t2 := rfl
@[simp] theorem setRom_t3 (m : Memory) (n : Nat) : (setRom m n s).t3 = s.t3 := rfl
@[simp] theorem setRom_s0 (m : Memory) (n : Nat) : (setRom m n s).s0 = s.s0 := rfl
@[simp] theorem setRom_a2 (m : Memory) (n : Nat) : (setRom m n s).a2 = s.a2 := rfl
@[simp] theorem setRom_t4 (m : Memory) (n : Nat) : (setRom m n s).t4 = s.t4 := rfl
@[simp] theorem setRom_ep (m : Memory) (n : Nat) : (setRom m n s).ep = s.ep := rfl
@[simp] theorem setRom_epr (m : Memory) (n : Nat) : (setRom m n s).epr = s.epr := rfl
@[simp] theorem setRom_t0 (m : Memory) (n : Nat) : (setRom m n s).t0 = s.t0 := rfl
@[simp] theorem setRom_t1 (m : Memory) (n : Nat) : (setRom m n s).t1 = s.t1 := rfl
@[simp] theorem setRom_s6 (m : Memory) (n : Nat) : (setRom m n s).s6 = s.s6 := rfl
@[simp] theorem setRom_opl (m : Memory) (n : Nat) : (setRom m n s).opl = s.opl := rfl
@[simp] theorem setRom_vl (m : Memory) (n : Nat) : (setRom m n s).vl = s.vl := rfl
@[simp] theorem setRom_lenl (m : Memory) (n : Nat) : (setRom m n s).lenl = s.lenl := rfl
@[simp] theorem setRom_errcode (m : Memory) (n : Nat) : (setRom m n s).errcode = s.errcode := rfl
@[simp] theorem setRom_romLen (m : Memory) (n : Nat) : (setRom m n s).romLen = s.romLen := rfl
@[simp] theorem setRom_result0 (m : Memory) (n : Nat) : (setRom m n s).result0 = s.result0 := rfl
@[simp] theorem setRom_result1 (m : Memory) (n : Nat) : (setRom m n s).result1 = s.result1 := rfl
@[simp] theorem setRom_detect (m : Memory) (n : Nat) : (setRom m n s).detect = s.detect := rfl
@[simp] theorem setRom_aliasReg (m : Memory) (n : Nat) : (setRom m n s).aliasReg = s.aliasReg := rfl
@[simp] theorem setRom_rom (m : Memory) (n : Nat) : (setRom m n s).rom = m := rfl
@[simp] theorem setRom_romStorage (m : Memory) (n : Nat) : (setRom m n s).romStorage = n := rfl
@[simp] theorem setRom_script (m : Memory) (n : Nat) : (setRom m n s).script = s.script := rfl
@[simp] theorem setRom_rdata (m : Memory) (n : Nat) : (setRom m n s).rdata = s.rdata := rfl
@[simp] theorem setRom_tainted (m : Memory) (n : Nat) :
    (setRom m n s).tainted = (s.tainted || (s.busy && changesBuffer m n s)) := rfl
@[simp] theorem setRom_draws (m : Memory) (n : Nat) : (setRom m n s).draws = s.draws := rfl

/-! ### `writeRomLen`: a host register write (R40, R43) -/

@[simp] theorem writeRomLen_phase (d : Word) : (writeRomLen d s).phase = s.phase := by
  unfold writeRomLen; split <;> rfl
@[simp] theorem writeRomLen_a3 (d : Word) : (writeRomLen d s).a3 = s.a3 := by
  unfold writeRomLen; split <;> rfl
@[simp] theorem writeRomLen_t2 (d : Word) : (writeRomLen d s).t2 = s.t2 := by
  unfold writeRomLen; split <;> rfl
@[simp] theorem writeRomLen_t3 (d : Word) : (writeRomLen d s).t3 = s.t3 := by
  unfold writeRomLen; split <;> rfl
@[simp] theorem writeRomLen_s0 (d : Word) : (writeRomLen d s).s0 = s.s0 := by
  unfold writeRomLen; split <;> rfl
@[simp] theorem writeRomLen_a2 (d : Word) : (writeRomLen d s).a2 = s.a2 := by
  unfold writeRomLen; split <;> rfl
@[simp] theorem writeRomLen_t4 (d : Word) : (writeRomLen d s).t4 = s.t4 := by
  unfold writeRomLen; split <;> rfl
@[simp] theorem writeRomLen_ep (d : Word) : (writeRomLen d s).ep = s.ep := by
  unfold writeRomLen; split <;> rfl
@[simp] theorem writeRomLen_epr (d : Word) : (writeRomLen d s).epr = s.epr := by
  unfold writeRomLen; split <;> rfl
@[simp] theorem writeRomLen_t0 (d : Word) : (writeRomLen d s).t0 = s.t0 := by
  unfold writeRomLen; split <;> rfl
@[simp] theorem writeRomLen_t1 (d : Word) : (writeRomLen d s).t1 = s.t1 := by
  unfold writeRomLen; split <;> rfl
@[simp] theorem writeRomLen_s6 (d : Word) : (writeRomLen d s).s6 = s.s6 := by
  unfold writeRomLen; split <;> rfl
@[simp] theorem writeRomLen_opl (d : Word) : (writeRomLen d s).opl = s.opl := by
  unfold writeRomLen; split <;> rfl
@[simp] theorem writeRomLen_vl (d : Word) : (writeRomLen d s).vl = s.vl := by
  unfold writeRomLen; split <;> rfl
@[simp] theorem writeRomLen_lenl (d : Word) : (writeRomLen d s).lenl = s.lenl := by
  unfold writeRomLen; split <;> rfl
@[simp] theorem writeRomLen_errcode (d : Word) : (writeRomLen d s).errcode = s.errcode := by
  unfold writeRomLen; split <;> rfl
@[simp] theorem writeRomLen_romLen (d : Word) : (writeRomLen d s).romLen = if s.busy then s.romLen else d := by
  unfold writeRomLen; split <;> rfl
@[simp] theorem writeRomLen_result0 (d : Word) : (writeRomLen d s).result0 = s.result0 := by
  unfold writeRomLen; split <;> rfl
@[simp] theorem writeRomLen_result1 (d : Word) : (writeRomLen d s).result1 = s.result1 := by
  unfold writeRomLen; split <;> rfl
@[simp] theorem writeRomLen_detect (d : Word) : (writeRomLen d s).detect = s.detect := by
  unfold writeRomLen; split <;> rfl
@[simp] theorem writeRomLen_aliasReg (d : Word) : (writeRomLen d s).aliasReg = s.aliasReg := by
  unfold writeRomLen; split <;> rfl
@[simp] theorem writeRomLen_rom (d : Word) : (writeRomLen d s).rom = s.rom := by
  unfold writeRomLen; split <;> rfl
@[simp] theorem writeRomLen_romStorage (d : Word) : (writeRomLen d s).romStorage = s.romStorage := by
  unfold writeRomLen; split <;> rfl
@[simp] theorem writeRomLen_script (d : Word) : (writeRomLen d s).script = s.script := by
  unfold writeRomLen; split <;> rfl
@[simp] theorem writeRomLen_rdata (d : Word) : (writeRomLen d s).rdata = s.rdata := by
  unfold writeRomLen; split <;> rfl
@[simp] theorem writeRomLen_tainted (d : Word) : (writeRomLen d s).tainted = s.tainted := by
  unfold writeRomLen; split <;> rfl
@[simp] theorem writeRomLen_draws (d : Word) : (writeRomLen d s).draws = s.draws := by
  unfold writeRomLen; split <;> rfl

/-! ### `writeAlias`: a host register write (R40, R43) -/

@[simp] theorem writeAlias_phase (d : Word) : (writeAlias d s).phase = s.phase := by
  unfold writeAlias; split <;> rfl
@[simp] theorem writeAlias_a3 (d : Word) : (writeAlias d s).a3 = s.a3 := by
  unfold writeAlias; split <;> rfl
@[simp] theorem writeAlias_t2 (d : Word) : (writeAlias d s).t2 = s.t2 := by
  unfold writeAlias; split <;> rfl
@[simp] theorem writeAlias_t3 (d : Word) : (writeAlias d s).t3 = s.t3 := by
  unfold writeAlias; split <;> rfl
@[simp] theorem writeAlias_s0 (d : Word) : (writeAlias d s).s0 = s.s0 := by
  unfold writeAlias; split <;> rfl
@[simp] theorem writeAlias_a2 (d : Word) : (writeAlias d s).a2 = s.a2 := by
  unfold writeAlias; split <;> rfl
@[simp] theorem writeAlias_t4 (d : Word) : (writeAlias d s).t4 = s.t4 := by
  unfold writeAlias; split <;> rfl
@[simp] theorem writeAlias_ep (d : Word) : (writeAlias d s).ep = s.ep := by
  unfold writeAlias; split <;> rfl
@[simp] theorem writeAlias_epr (d : Word) : (writeAlias d s).epr = s.epr := by
  unfold writeAlias; split <;> rfl
@[simp] theorem writeAlias_t0 (d : Word) : (writeAlias d s).t0 = s.t0 := by
  unfold writeAlias; split <;> rfl
@[simp] theorem writeAlias_t1 (d : Word) : (writeAlias d s).t1 = s.t1 := by
  unfold writeAlias; split <;> rfl
@[simp] theorem writeAlias_s6 (d : Word) : (writeAlias d s).s6 = s.s6 := by
  unfold writeAlias; split <;> rfl
@[simp] theorem writeAlias_opl (d : Word) : (writeAlias d s).opl = s.opl := by
  unfold writeAlias; split <;> rfl
@[simp] theorem writeAlias_vl (d : Word) : (writeAlias d s).vl = s.vl := by
  unfold writeAlias; split <;> rfl
@[simp] theorem writeAlias_lenl (d : Word) : (writeAlias d s).lenl = s.lenl := by
  unfold writeAlias; split <;> rfl
@[simp] theorem writeAlias_errcode (d : Word) : (writeAlias d s).errcode = s.errcode := by
  unfold writeAlias; split <;> rfl
@[simp] theorem writeAlias_romLen (d : Word) : (writeAlias d s).romLen = s.romLen := by
  unfold writeAlias; split <;> rfl
@[simp] theorem writeAlias_result0 (d : Word) : (writeAlias d s).result0 = s.result0 := by
  unfold writeAlias; split <;> rfl
@[simp] theorem writeAlias_result1 (d : Word) : (writeAlias d s).result1 = s.result1 := by
  unfold writeAlias; split <;> rfl
@[simp] theorem writeAlias_detect (d : Word) : (writeAlias d s).detect = s.detect := by
  unfold writeAlias; split <;> rfl
@[simp] theorem writeAlias_aliasReg (d : Word) : (writeAlias d s).aliasReg = if s.busy then s.aliasReg else d := by
  unfold writeAlias; split <;> rfl
@[simp] theorem writeAlias_rom (d : Word) : (writeAlias d s).rom = s.rom := by
  unfold writeAlias; split <;> rfl
@[simp] theorem writeAlias_romStorage (d : Word) : (writeAlias d s).romStorage = s.romStorage := by
  unfold writeAlias; split <;> rfl
@[simp] theorem writeAlias_script (d : Word) : (writeAlias d s).script = s.script := by
  unfold writeAlias; split <;> rfl
@[simp] theorem writeAlias_rdata (d : Word) : (writeAlias d s).rdata = s.rdata := by
  unfold writeAlias; split <;> rfl
@[simp] theorem writeAlias_tainted (d : Word) : (writeAlias d s).tainted = s.tainted := by
  unfold writeAlias; split <;> rfl
@[simp] theorem writeAlias_draws (d : Word) : (writeAlias d s).draws = s.draws := by
  unfold writeAlias; split <;> rfl

end Sys2Proof.Machine
end

