-- ==== Sys2Proof/Laws/Ops.lean ====
section
/-! SUPPORT. One lemma per shared operation that says everything it can do, and the inversion of the commands: what a
transition of a command is, said once. -/

namespace Sys2Proof.Machine

/-! ### Chaining -/

@[simp] theorem andThen_next {α β : Type} (a : α) (f : α → Result β) : andThen (.next a) f = f a := rfl

@[simp] theorem andThen_fault {α β : Type} (r : Fault) (f : α → Result β) :
    andThen (.fault r : Result α) f = .fault r := rfl

@[simp] theorem andThen_refused {α β : Type} (r : Refusal) (f : α → Result β) :
    andThen (.refused r : Result α) f = .refused r := rfl

/-- A chain answers exactly when both parts do. -/
theorem andThen_eq_next {α β : Type} {o : Result α} {f : α → Result β} {b : β} :
    andThen o f = .next b ↔ ∃ a, o = .next a ∧ f a = .next b := by
  cases o <;> simp [andThen]

/-- Where a chain faults. -/
theorem andThen_eq_fault {α β : Type} {o : Result α} {f : α → Result β} {r : Fault} :
    andThen o f = .fault r ↔ o = .fault r ∨ ∃ a, o = .next a ∧ f a = .fault r := by
  cases o <;> simp [andThen]

/-! ### Reads of the ROM buffer -/

/-- A read goes through exactly when it is inside the buffer and inside the storage connected (R75, U11). -/
theorem romCheck_eq_next {off : Word} {n : Nat} {s : State} {u : Unit} :
    romCheck off n s = .next u ↔ off.toNat + n ≤ s.lenl.toNat ∧ off.toNat + n ≤ s.romStorage := by
  unfold romCheck
  split
  · simp; omega
  · split
    · simp; omega
    · simp; omega

/-- A read faults exactly outside the buffer (R75, U4). -/
theorem romCheck_eq_fault {off : Word} {n : Nat} {s : State} {r : Fault} :
    romCheck off n s = .fault r ↔ s.lenl.toNat < off.toNat + n ∧ r = .romOutsideBuffer := by
  unfold romCheck
  split
  · simp_all [eq_comm]
  · split <;> simp_all

/-- What `MemRead32` answers. -/
theorem memRead32_eq_next {off : Word} {s : State} {w : Word} :
    memRead32 off s = .next w ↔
      off.toNat + 4 ≤ s.lenl.toNat ∧ off.toNat + 4 ≤ s.romStorage ∧ w = s.rom.word off.toNat := by
  unfold memRead32
  rw [andThen_eq_next]
  constructor
  · rintro ⟨u, h, hw⟩
    exact ⟨(romCheck_eq_next.1 h).1, (romCheck_eq_next.1 h).2, by simpa [eq_comm] using hw⟩
  · rintro ⟨h1, h2, rfl⟩
    exact ⟨(), romCheck_eq_next.2 ⟨h1, h2⟩, rfl⟩

theorem memRead32_of_le {off : Word} {s : State} (h1 : off.toNat + 4 ≤ s.lenl.toNat)
    (h2 : off.toNat + 4 ≤ s.romStorage) : memRead32 off s = .next (s.rom.word off.toNat) :=
  memRead32_eq_next.2 ⟨h1, h2, rfl⟩

theorem memRead32_eq_fault {off : Word} {s : State} {r : Fault} :
    memRead32 off s = .fault r ↔ s.lenl.toNat < off.toNat + 4 ∧ r = .romOutsideBuffer := by
  unfold memRead32
  rw [andThen_eq_fault, romCheck_eq_fault]
  simp

/-- What a read at a translated address answers. -/
theorem memReadStream_eq_next {off : Word} {s : State} {w : Word} :
    memReadStream off s = .next w ↔
      off.toNat + 4 ≤ 0x101000 ∧ off.toNat + 4 ≤ s.lenl.toNat ∧ off.toNat + 4 ≤ s.romStorage ∧
        w = s.rom.word off.toNat := by
  have hc : ckMinLen.toNat = 0x101000 := rfl
  unfold memReadStream
  split
  · simp; omega
  · rw [memRead32_eq_next]
    exact ⟨fun h => ⟨by omega, h⟩, fun h => h.2⟩

theorem memReadStream_of_le {off : Word} {s : State} (h : off.toNat + 4 ≤ 0x101000)
    (h1 : off.toNat + 4 ≤ s.lenl.toNat) (h2 : off.toNat + 4 ≤ s.romStorage) :
    memReadStream off s = .next (s.rom.word off.toNat) :=
  memReadStream_eq_next.2 ⟨h, h1, h2, rfl⟩

/-- A translated read faults exactly outside the buffer or the window (R75, U4). -/
theorem memReadStream_eq_fault {off : Word} {s : State} {r : Fault} :
    memReadStream off s = .fault r ↔
      (0x101000 < off.toNat + 4 ∨ s.lenl.toNat < off.toNat + 4) ∧ r = .romOutsideBuffer := by
  have hc : ckMinLen.toNat = 0x101000 := rfl
  unfold memReadStream
  split
  · rename_i h
    rw [hc] at h
    simp [h, eq_comm]
  · rename_i h
    rw [hc] at h
    rw [memRead32_eq_fault]
    simp [h]

/-- What `Bytes` answers. -/
theorem memReadBytes_eq_next {off : Word} {n : Nat} {s : State} {l : List Byte} :
    memReadBytes off n s = .next l ↔
      off.toNat + n ≤ s.lenl.toNat ∧ off.toNat + n ≤ s.romStorage ∧ l = s.rom.bytes off.toNat n := by
  unfold memReadBytes
  rw [andThen_eq_next]
  constructor
  · rintro ⟨u, h, hw⟩
    exact ⟨(romCheck_eq_next.1 h).1, (romCheck_eq_next.1 h).2, by simpa [eq_comm] using hw⟩
  · rintro ⟨h1, h2, rfl⟩
    exact ⟨(), romCheck_eq_next.2 ⟨h1, h2⟩, rfl⟩

theorem memReadBytes_eq_fault {off : Word} {n : Nat} {s : State} {r : Fault} :
    memReadBytes off n s = .fault r ↔ s.lenl.toNat < off.toNat + n ∧ r = .romOutsideBuffer := by
  unfold memReadBytes
  rw [andThen_eq_fault, romCheck_eq_fault]
  simp

/-! ### The end of a run -/

/-- A buffer the host left alone: the end of a run changes nothing. -/
theorem endRun_untainted {s : State} (h : s.tainted = false) : endRun s = s := by
  cases s; simp_all [endRun]

/-- Raising an error on a buffer the host left alone (R241). -/
theorem raiseError_untainted {s : State} (e : ErrCode) (h : s.tainted = false) :
    raiseError e s = { s with errcode := e, phase := .error } :=
  endRun_untainted h

/-- The end of a checksum run on a buffer the host left alone (R164). -/
theorem writeResults_untainted {s : State} (w0 w1 : Word) (h : s.tainted = false) :
    writeResults w0 w1 s = { s with result0 := w0, result1 := w1, errcode := .noError, phase := .done } :=
  endRun_untainted h

/-- The end of a detector run on a buffer the host left alone (R202). -/
theorem writeDetect_untainted {s : State} (m : Option Variant) (h : s.tainted = false) :
    writeDetect m s = { s with detect := detectWord m, errcode := .noError, phase := .done } :=
  endRun_untainted h

/-! ### Commands -/

/-- What acceptance of a command latches (R240). -/
def latchOf : Instr → State → State
  | .checksum6101 => latchChecksum .v6101
  | .checksum6102_7101 => latchChecksum .v6102_7101
  | .checksum7102 => latchChecksum .v7102
  | .checksumX103 => latchChecksum .x103
  | .checksumX105 => latchChecksum .x105
  | .checksumX106 => latchChecksum .x106
  | .detectIpl3 => latchDetectIpl3
  | .detectRom => latchDetectRom
  | .resolveAlias => latchResolveAlias

/-- The next step of a command's run (R34). -/
def advanceOf : Instr → State → Result State
  | .checksum6101 => checksumStep .v6101
  | .checksum6102_7101 => checksumStep .v6102_7101
  | .checksum7102 => checksumStep .v7102
  | .checksumX103 => checksumStep .x103
  | .checksumX105 => checksumStep .x105
  | .checksumX106 => checksumStep .x106
  | .detectIpl3 => detectStep detIpl3MinLen 0
  | .detectRom => detectStep detRomMinLen ipl3Off
  | .resolveAlias => resolveStep

@[simp] theorem latchOf_checksumOf (v : Variant) : latchOf (checksumOf v) = latchChecksum v := by cases v <;> rfl

@[simp] theorem advanceOf_checksumOf (v : Variant) : advanceOf (checksumOf v) = checksumStep v := by cases v <;> rfl

/-- Every command is accepted, advanced or turned away by the one shared operation. -/
theorem exec_eq_runCommand (i : Instr) (s : State) : exec i s = runCommand i (latchOf i) (advanceOf i) s := by
  cases i <;> rfl

/-- With no run in progress a command is accepted. -/
theorem exec_of_quiescent {i : Instr} {s : State} (h : s.busy = false) :
    exec i s = .next (latchOf i (beginCommand s)) := by
  rw [exec_eq_runCommand, runCommand, h]; rfl

/-- With its own run in progress a command makes that run's next step. -/
theorem exec_of_latched {i : Instr} {s : State} (h : s.busy = true) (hl : s.latched = some i) :
    exec i s = advanceOf i s := by
  rw [exec_eq_runCommand, runCommand, h, if_pos rfl, if_pos hl]

/-- With another command's run in progress a command is turned away. -/
theorem exec_of_other {i : Instr} {s : State} (h : s.busy = true) (hl : s.latched ≠ some i) :
    exec i s = .next s := by
  rw [exec_eq_runCommand, runCommand, h, if_pos rfl, if_neg hl]

/-- In a busy phase a `CHECKSUM` makes its own run's next step. -/
theorem exec_checksumOf_of_latched {v : Variant} {s : State} (h : s.busy = true)
    (hl : s.latched = some (checksumOf v)) : exec (checksumOf v) s = checksumStep v s := by
  rw [exec_of_latched h hl, advanceOf_checksumOf]

/-- What a command that goes through has done. -/
theorem exec_cases {i : Instr} {s t : State} (h : exec i s = .next t) :
    (s.busy = false ∧ t = latchOf i (beginCommand s)) ∨
    (s.busy = true ∧ s.latched = some i ∧ advanceOf i s = .next t) ∨
    (s.busy = true ∧ s.latched ≠ some i ∧ t = s) := by
  cases hb : s.busy with
  | false =>
    rw [exec_of_quiescent hb] at h
    exact .inl ⟨rfl, (Host.Outcome.next.inj h).symm⟩
  | true =>
    by_cases hl : s.latched = some i
    · rw [exec_of_latched hb hl] at h
      exact .inr (.inl ⟨rfl, hl, h⟩)
    · rw [exec_of_other hb hl] at h
      exact .inr (.inr ⟨rfl, hl, (Host.Outcome.next.inj h).symm⟩)

/-! ### The steps of a run -/

/-- What a step of a `CHECKSUM` run that goes through has done (R141 to R164). -/
theorem checksumStep_cases {v : Variant} {s t : State} (h : checksumStep v s = .next t) :
    (s.phase = .ckInit ∧ s.lenl.toNat < 0x101000 ∧ t = raiseError .bufferTooSmall s) ∨
    (s.phase = .ckInit ∧ 0x101000 ≤ s.lenl.toNat ∧ t = seedRegisters v (s.rom.word 8) s) ∨
    (s.phase = .ckLoop ∧ v ≠ .x105 ∧ t = iterateDefault (s.rom.word (romOffMain s.epr s.t1).toNat) s) ∨
    (s.phase = .ckLoop ∧ v = .x105 ∧
      t = iterateX105 (s.rom.word (romOffMain s.epr s.t1).toNat) (s.rom.word (romOffX105 s.s6).toNat) s) ∨
    (s.phase = .ckFinal ∧
      t = writeResults (combine0 v s.a3 s.t2 s.t3) (combine1 v s.s0 s.a2 s.t4) s) := by
  unfold checksumStep at h
  split at h
  · rename_i hp
    unfold ckInit at h
    split at h
    · rename_i hl
      exact .inl ⟨hp, by simpa [ckMinLen, BitVec.lt_def] using hl, (Host.Outcome.next.inj h).symm⟩
    · rename_i hl
      obtain ⟨e, he, ht⟩ := andThen_eq_next.1 h
      obtain ⟨-, -, rfl⟩ := memRead32_eq_next.1 he
      exact .inr (.inl ⟨hp, by simpa [ckMinLen, BitVec.lt_def] using hl, (Host.Outcome.next.inj ht).symm⟩)
  · rename_i hp
    obtain ⟨w, hw, ht⟩ := andThen_eq_next.1 h
    obtain ⟨-, -, -, rfl⟩ := memReadStream_eq_next.1 hw
    split at ht
    · rename_i hv
      obtain ⟨x, hx, ht⟩ := andThen_eq_next.1 ht
      obtain ⟨-, -, -, rfl⟩ := memReadStream_eq_next.1 hx
      exact .inr (.inr (.inr (.inl ⟨hp, hv, (Host.Outcome.next.inj ht).symm⟩)))
    · rename_i hv
      exact .inr (.inr (.inl ⟨hp, hv, (Host.Outcome.next.inj ht).symm⟩))
  · rename_i hp
    exact .inr (.inr (.inr (.inr ⟨hp, (Host.Outcome.next.inj h).symm⟩)))
  all_goals cases h

/-- What a step of a detection that goes through has done (R200 to R212). -/
theorem detectStep_cases {minLen off : Word} {s t : State} (h : detectStep minLen off s = .next t) :
    s.phase = .detHash ∧
      ((s.lenl.toNat < minLen.toNat ∧ t = raiseError .bufferTooSmall s) ∨
        (minLen.toNat ≤ s.lenl.toNat ∧
          t = writeDetect
            (firstMatch Config.expectedHashOf (Config.hash128 (s.rom.bytes off.toNat ipl3HashLen))) s)) := by
  unfold detectStep at h
  split at h
  · rename_i hp
    refine ⟨hp, ?_⟩
    unfold detHash at h
    split at h
    · rename_i hl
      exact .inl ⟨by simpa [BitVec.lt_def] using hl, (Host.Outcome.next.inj h).symm⟩
    · rename_i hl
      obtain ⟨l, hlst, ht⟩ := andThen_eq_next.1 h
      obtain ⟨-, -, hbytes⟩ := memReadBytes_eq_next.1 hlst
      rw [hbytes] at ht
      exact .inr ⟨by simpa [BitVec.lt_def] using hl, (Host.Outcome.next.inj ht).symm⟩
  all_goals cases h

/-- What the resolver's step does (R221). -/
theorem resolveStep_cases {s t : State} (h : resolveStep s = .next t) :
    s.phase = .alMap ∧
      ((aliasOf s.aliasReg = none ∧ t = raiseError .unrecognizedVariant s) ∨
        ∃ v, aliasOf s.aliasReg = some v ∧ t = writeDetect (some v) s) := by
  unfold resolveStep at h
  split at h
  · rename_i hp
    refine ⟨hp, ?_⟩
    unfold alMap at h
    split at h
    · rename_i ha
      exact .inl ⟨ha, (Host.Outcome.next.inj h).symm⟩
    · rename_i v ha
      exact .inr ⟨v, ha, (Host.Outcome.next.inj h).symm⟩
  all_goals cases h

/-! ### The latched command -/

theorem latchedInstr_eq_checksumOf {opl vl : BitVec 4} {v : Variant} :
    latchedInstr opl vl = some (checksumOf v) ↔ opl = 1 ∧ vl = variantCode v := by
  constructor
  · intro h
    unfold latchedInstr at h
    split at h
    · rename_i ho
      obtain ⟨u, hu, he⟩ := Option.map_eq_some_iff.1 h
      exact ⟨ho, by rw [variantOfCode_eq_some.1 hu, checksumOf_injective he]⟩
    · exfalso
      revert h
      split
      · cases v <;> simp [checksumOf]
      · split
        · cases v <;> simp [checksumOf]
        · split
          · cases v <;> simp [checksumOf]
          · simp
  · rintro ⟨rfl, rfl⟩
    simp [latchedInstr]

theorem latchedInstr_eq_detectIpl3 {opl vl : BitVec 4} :
    latchedInstr opl vl = some .detectIpl3 ↔ opl = 2 := by
  have key : ∀ opl vl : BitVec 4, latchedInstr opl vl = some .detectIpl3 ↔ opl = 2 := by decide
  exact key opl vl

theorem latchedInstr_eq_detectRom {opl vl : BitVec 4} :
    latchedInstr opl vl = some .detectRom ↔ opl = 3 := by
  have key : ∀ opl vl : BitVec 4, latchedInstr opl vl = some .detectRom ↔ opl = 3 := by decide
  exact key opl vl

theorem latchedInstr_eq_resolveAlias {opl vl : BitVec 4} :
    latchedInstr opl vl = some .resolveAlias ↔ opl = 4 := by
  have key : ∀ opl vl : BitVec 4, latchedInstr opl vl = some .resolveAlias ↔ opl = 4 := by decide
  exact key opl vl

/-! ### Phases -/

theorem Phase.isBusy_iff {p : Phase} :
    p.isBusy = true ↔ p = .ckInit ∨ p = .ckLoop ∨ p = .ckFinal ∨ p = .detHash ∨ p = .alMap := by
  cases p <;> simp [Phase.isBusy]

theorem Phase.not_isBusy_iff {p : Phase} : p.isBusy = false ↔ p = .idle ∨ p = .done ∨ p = .error := by
  cases p <;> simp [Phase.isBusy]

theorem statusWord_of_busy {p : Phase} (h : p.isBusy = true) : statusWord p = 1 := by
  cases p <;> simp_all [Phase.isBusy, statusWord]

end Sys2Proof.Machine
end

