-- ==== Sys2Proof/Laws/Step.lean ====
section
/-! SUPPORT. The inversion of the step: what one turn of the host or of the block can do, said once. -/

namespace Sys2Proof.Machine

/-! ### Which agent moves -/

theorem step_of_nil {s : State} (h : s.script = []) : step s = blockTurn s := by
  rw [step, turn, h]

theorem step_of_cons {s : State} {act : HostAction} {rest : List HostAction} (h : s.script = act :: rest) :
    step s = hostTurn act rest s := by
  rw [step, turn, h]

/-! ### The block's turn -/

theorem blockTurn_of_quiescent {s : State} (h : s.busy = false) : blockTurn s = .next s := by
  rw [blockTurn, h]; rfl

theorem blockTurn_of_latched {s : State} {i : Instr} (h : s.busy = true) (hl : s.latched = some i) :
    blockTurn s = exec i s := by
  rw [blockTurn, h, if_pos rfl, hl]

/-- What a block turn that goes through has done. -/
theorem blockTurn_cases {s t : State} (h : blockTurn s = .next t) :
    (s.busy = false ∧ t = s) ∨ (s.busy = true ∧ ∃ i, s.latched = some i ∧ advanceOf i s = .next t) := by
  cases hb : s.busy with
  | false =>
    rw [blockTurn_of_quiescent hb] at h
    exact .inl ⟨rfl, (Host.Outcome.next.inj h).symm⟩
  | true =>
    cases hl : s.latched with
    | none => rw [blockTurn, hb, if_pos rfl, hl] at h; cases h
    | some i =>
      rw [blockTurn_of_latched hb hl, exec_of_latched hb hl] at h
      exact .inr ⟨rfl, i, rfl, h⟩

/-! ### The host's register accesses -/

/-- An access goes through exactly when it is an aligned 32-bit one (R77, R261). -/
theorem accessCheck_eq_next {off : Offset} {width : Width} {u : Unit} :
    accessCheck off width = .next u ↔ width = .w32 ∧ off.toNat % 4 = 0 := by
  unfold accessCheck
  split
  · simp_all
  · split <;> simp_all

/-- What a write of `CMD` that goes through has done (R240). -/
theorem writeCmd_cases {c : Word} {s t : State} (h : writeCmd c s = .next t) :
    (s.busy = true ∧ t = s) ∨
    (s.busy = false ∧ ∃ i, decode c = .legal i ∧ t = latchOf i (beginCommand s)) ∨
    (s.busy = false ∧ decode c = .illegalCommand ∧ t = raiseError .illegalCommand (beginCommand s)) ∨
    (s.busy = false ∧ decode c = .unrecognizedVariant ∧ t = raiseError .unrecognizedVariant (beginCommand s)) := by
  unfold writeCmd at h
  cases hb : s.busy with
  | true =>
    rw [hb, if_pos rfl] at h
    exact .inl ⟨rfl, (Host.Outcome.next.inj h).symm⟩
  | false =>
    rw [hb, if_neg (by simp)] at h
    split at h
    · rename_i i hd
      rw [exec_of_quiescent hb] at h
      exact .inr (.inl ⟨rfl, i, hd, (Host.Outcome.next.inj h).symm⟩)
    · rename_i hd
      exact .inr (.inr (.inl ⟨rfl, hd, (Host.Outcome.next.inj h).symm⟩))
    · rename_i hd
      exact .inr (.inr (.inr ⟨rfl, hd, (Host.Outcome.next.inj h).symm⟩))

/-- What a register write that goes through has done (R36 to R44). -/
theorem hostWrite_cases {off : Offset} {width : Width} {d : Word} {s t : State}
    (h : hostWrite off width d s = .next t) :
    width = .w32 ∧ off.toNat % 4 = 0 ∧
      ((off = 0x00 ∧ writeCmd d s = .next t) ∨ (off = 0x0C ∧ t = writeRomLen d s) ∨
        (off = 0x1C ∧ t = writeAlias d s) ∨ (off ≠ 0x00 ∧ off ≠ 0x0C ∧ off ≠ 0x1C ∧ t = s)) := by
  obtain ⟨u, hc, ht⟩ := andThen_eq_next.1 h
  obtain ⟨hw, ha⟩ := accessCheck_eq_next.1 hc
  refine ⟨hw, ha, ?_⟩
  split at ht
  · exact .inl ⟨‹_›, ht⟩
  · split at ht
    · exact .inr (.inl ⟨‹_›, (Host.Outcome.next.inj ht).symm⟩)
    · split at ht
      · exact .inr (.inr (.inl ⟨‹_›, (Host.Outcome.next.inj ht).symm⟩))
      · exact .inr (.inr (.inr ⟨‹_›, ‹_›, ‹_›, (Host.Outcome.next.inj ht).symm⟩))

/-- What a register read that goes through has done (R77). -/
theorem hostRead_cases {off : Offset} {width : Width} {s t : State} (h : hostRead off width s = .next t) :
    width = .w32 ∧ off.toNat % 4 = 0 ∧ t = { s with rdata := readReg off s } := by
  obtain ⟨u, hc, ht⟩ := andThen_eq_next.1 h
  obtain ⟨hw, ha⟩ := accessCheck_eq_next.1 hc
  exact ⟨hw, ha, (Host.Outcome.next.inj ht).symm⟩

/-- The bus address of an offset selects that offset (R36). -/
@[simp] theorem windowOffset_busAddress (off : Offset) : windowOffset (busAddress off) = some off := by
  have hsub : busAddress off - Config.ckbase = off.setWidth 32 := by
    rw [busAddress, BitVec.add_comm, BitVec.add_sub_cancel]
  have hlt : (off.setWidth 32 : Word) < 0x40 := by
    rw [BitVec.lt_def, BitVec.toNat_setWidth]
    have := off.isLt
    exact Nat.lt_of_le_of_lt (Nat.mod_le _ _) this
  rw [windowOffset, hsub, if_pos hlt]
  congr 1
  ext i hi
  simp

/-- An address selects an offset exactly when it is that offset's bus address. -/
theorem windowOffset_eq_some {addr : Word} {off : Offset} :
    windowOffset addr = some off ↔ addr = busAddress off := by
  constructor
  · intro h
    unfold windowOffset at h
    split at h
    · rename_i hlt
      have hoff := Option.some.inj h
      have hlt : (addr - Config.ckbase).toNat < 64 := hlt
      rw [busAddress, ← hoff]
      apply BitVec.eq_of_toNat_eq
      have hck := Config.ckbase.isLt
      have haddr := addr.isLt
      simp only [BitVec.toNat_add, BitVec.toNat_sub, BitVec.toNat_setWidth] at hlt ⊢
      norm_num at hlt ⊢
      omega
    · cases h
  · rintro rfl
    exact windowOffset_busAddress off

/-- Two addresses a byte distance apart: the distance is that of the bytes. -/
theorem sub_toNat_eq_iff {base addr : Word} {k : Nat} (hk : k < 2 ^ 32) :
    (base - addr).toNat = k ↔ base = addr + BitVec.ofNat 32 k := by
  constructor
  · intro h
    rw [← h, BitVec.ofNat_toNat, BitVec.setWidth_eq, BitVec.add_comm, BitVec.sub_add_cancel]
  · rintro rfl
    rw [BitVec.add_comm, BitVec.add_sub_cancel, BitVec.toNat_ofNat, Nat.mod_eq_of_lt hk]

/-- An access reaches the window exactly when one of its bytes after the first is the window's first (R36, R77). -/
theorem reachesWindow_iff {addr : Word} {width : Width} :
    reachesWindow addr width = true ↔
      ∃ k, 0 < k ∧ k < accessBytes width ∧ Config.ckbase = addr + BitVec.ofNat 32 k := by
  have hb : accessBytes width ≤ 8 := by cases width <;> decide
  rw [reachesWindow, decide_eq_true_eq]
  constructor
  · rintro ⟨h0, h1⟩
    exact ⟨_, h0, h1, (sub_toNat_eq_iff (by omega)).1 rfl⟩
  · rintro ⟨k, h0, h1, h⟩
    rw [(sub_toNat_eq_iff (by omega)).2 h]
    exact ⟨h0, h1⟩

/-- An address 0x40 bytes or more above `CKBASE`, modulo 2^32, is the start of no register. -/
theorem windowOffset_add {d : Word} (hd : ¬ d < 0x40) : windowOffset (Config.ckbase + d) = none := by
  rw [windowOffset, BitVec.add_comm, BitVec.add_sub_cancel, if_neg hd]

/-- An access that starts `e` bytes below `CKBASE` reaches the window when it is wider than that. -/
theorem reachesWindow_add {d e : Word} (width : Width) (h : d + e = 0) :
    reachesWindow (Config.ckbase + d) width = decide (0 < e.toNat ∧ e.toNat < accessBytes width) := by
  have hsub : Config.ckbase - (Config.ckbase + d) = e := by
    rw [BitVec.sub_eq_iff_eq_add, BitVec.add_comm e, BitVec.add_assoc, h]
    exact (BitVec.add_zero _).symm
  rw [reachesWindow, hsub]

/-- An access that starts below the window and reaches into it is refused (R77, R261). -/
theorem busAccess_of_reaches {addr : Word} {width : Width} (h : windowOffset addr = none)
    (hr : reachesWindow addr width = true) (f : Offset → Result State) (s : State) :
    busAccess addr width f s = .refused (if width ≠ .w32 then .accessWidth else .accessAlignment) := by
  simp only [busAccess, h, hr, if_true]

/-- An access with no byte in the window changes nothing. -/
theorem busAccess_of_outside {addr : Word} {width : Width} (h : windowOffset addr = none)
    (hr : reachesWindow addr width = false) (f : Offset → Result State) (s : State) :
    busAccess addr width f s = .next s := by
  simp only [busAccess, h, hr, Bool.false_eq_true, if_false]

/-- What an access at a bus address that goes through has done. -/
theorem busAccess_cases {addr : Word} {width : Width} {f : Offset → Result State} {s t : State}
    (h : busAccess addr width f s = .next t) :
    (∃ off, windowOffset addr = some off ∧ f off = .next t) ∨
      (windowOffset addr = none ∧ reachesWindow addr width = false ∧ t = s) := by
  unfold busAccess at h
  split at h
  · exact .inl ⟨_, ‹_›, h⟩
  · split at h
    · cases h
    · rename_i hw hr
      exact .inr ⟨hw, by simpa using hr, (Host.Outcome.next.inj h).symm⟩

/-- An access at a bus address faults only where its access of the window does. -/
theorem busAccess_fault {addr : Word} {width : Width} {f : Offset → Result State} {s : State} {r : Fault}
    (h : busAccess addr width f s = .fault r) : ∃ off, windowOffset addr = some off ∧ f off = .fault r := by
  unfold busAccess at h
  split at h
  · exact ⟨_, ‹_›, h⟩
  · split at h <;> cases h

/-! ### The whole step -/

/-- What one turn can do, for claims about every step: `p` is the state with the turn's own bookkeeping (the script and
the last read). -/
inductive Move (s : State) (p : State) : State → Prop
  /-- Nothing else: no turn pending, a read, an ignored write. -/
  | stay : Move s p p
  /-- `ROM_LEN` is written. -/
  | romLen (d : Word) (hb : s.busy = false) : Move s p { p with romLen := d }
  /-- `ALIAS` is written. -/
  | cicNumber (d : Word) (hb : s.busy = false) : Move s p { p with aliasReg := d }
  /-- A command is accepted. -/
  | accept (i : Instr) (hb : s.busy = false) : Move s p (latchOf i (beginCommand p))
  /-- A command word is rejected. -/
  | reject (e : ErrCode) (he : e ≠ .noError) (hb : s.busy = false) : Move s p (raiseError e (beginCommand p))
  /-- The block makes the next step of its run. -/
  | advance (i : Instr) (t : State) (hb : s.busy = true) (hl : s.latched = some i) (ht : advanceOf i p = .next t) :
      Move s p t
  /-- The host changes the ROM buffer. -/
  | rom (m : Memory) (n : Nat) (hm : s.rom.wf → s.rom.inside s.romStorage → m.wf ∧ m.inside n) :
      Move s p (setRom m n p)
  /-- The reset input. -/
  | reset (hr : ∃ rest, s.script = .reset :: rest) : Move s p (resetBlock p)

/-- A write of `CMD` is one of the moves. -/
theorem move_of_writeCmd {c : Word} {s p t : State} (hb : p.busy = s.busy) (h : writeCmd c p = .next t) :
    Move s p t := by
  rcases writeCmd_cases h with ⟨-, rfl⟩ | ⟨hq, i, -, rfl⟩ | ⟨hq, -, rfl⟩ | ⟨hq, -, rfl⟩
  · exact .stay
  · exact .accept i (hb ▸ hq)
  · exact .reject _ (by simp) (hb ▸ hq)
  · exact .reject _ (by simp) (hb ▸ hq)

/-- A register write is one of the moves. -/
theorem move_of_hostWrite {off : Offset} {width : Width} {d : Word} {s p t : State} (hb : p.busy = s.busy)
    (h : hostWrite off width d p = .next t) : Move s p t := by
  obtain ⟨-, -, ⟨-, h⟩ | ⟨-, rfl⟩ | ⟨-, rfl⟩ | ⟨-, -, -, rfl⟩⟩ := hostWrite_cases h
  · exact move_of_writeCmd hb h
  · unfold writeRomLen
    split
    · exact .stay
    · rename_i hq
      exact .romLen d (by rw [← hb]; simpa using hq)
  · unfold writeAlias
    split
    · exact .stay
    · rename_i hq
      exact .cicNumber d (by rw [← hb]; simpa using hq)
  · exact .stay

/-- A block turn is one of the moves. -/
theorem move_of_blockTurn {s p t : State} (hb : p.busy = s.busy) (hl : p.latched = s.latched)
    (h : blockTurn p = .next t) : Move s p t := by
  rcases blockTurn_cases h with ⟨-, rfl⟩ | ⟨hq, i, hi, ht⟩
  · exact .stay
  · exact .advance i t (hb ▸ hq) (hl ▸ hi) ht

/-- Every step that goes through is one of the moves, over the state with the turn's bookkeeping done. -/
theorem step_cases {s t : State} (h : step s = .next t) :
    ∃ rest d, Move s { s with script := rest, rdata := d } t := by
  cases hs : s.script with
  | nil =>
    rw [step_of_nil hs] at h
    exact ⟨s.script, s.rdata, move_of_blockTurn rfl rfl h⟩
  | cons act rest =>
    rw [step_of_cons hs] at h
    cases act with
    | write off width d => exact ⟨rest, s.rdata, move_of_hostWrite rfl h⟩
    | read off width =>
      obtain ⟨-, -, rfl⟩ := hostRead_cases h
      exact ⟨rest, _, .stay⟩
    | busWrite addr width d =>
      rcases busAccess_cases h with ⟨off, -, h⟩ | ⟨-, -, rfl⟩
      · exact ⟨rest, s.rdata, move_of_hostWrite rfl h⟩
      · exact ⟨rest, s.rdata, .stay⟩
    | busRead addr width =>
      rcases busAccess_cases h with ⟨off, -, h⟩ | ⟨-, -, rfl⟩
      · obtain ⟨-, -, rfl⟩ := hostRead_cases h
        exact ⟨rest, _, .stay⟩
      · exact ⟨rest, s.rdata, .stay⟩
    | romByte off b =>
      simp only [hostTurn, hostRomByte] at h
      split at h
      · cases h
      · rename_i hn
        cases h
        exact ⟨rest, s.rdata, .rom _ _ fun hw hi =>
          ⟨Memory.wf_write hw _ _, Memory.inside_write hi (by simpa using hn) _⟩⟩
    | romWord off w =>
      simp only [hostTurn, hostRomWord] at h
      split at h
      · cases h
      · rename_i hn
        cases h
        exact ⟨rest, s.rdata, .rom _ _ fun hw hi =>
          ⟨Memory.wf_writeWord hw _ _, Memory.inside_writeWord hi (by simpa using hn) _⟩⟩
    | romFill size image =>
      cases h
      exact ⟨rest, s.rdata, .rom _ _ fun _ _ => ⟨Memory.wf_ofImage size image, Memory.inside_ofImage size image⟩⟩
    | reset =>
      cases h
      exact ⟨rest, s.rdata, .reset ⟨rest, hs⟩⟩
    | wait =>
      simp only [hostTurn, waitTurn] at h
      split at h
      · exact ⟨s.script, statusWord s.phase, move_of_blockTurn rfl rfl h⟩
      · cases h
        exact ⟨rest, statusWord s.phase, .stay⟩
    | idle => exact ⟨rest, s.rdata, move_of_blockTurn rfl rfl h⟩

end Sys2Proof.Machine
end

