-- ==== Sys2Proof/Laws/Operands.lean ====
section
/-! SUPPORT. The engine's flags, rotation and pointer in arithmetic terms. -/

namespace Sys2Proof.Machine

/-- The carry is counted exactly when the integer sum reaches 2^32 (R151). -/
theorem carryOf_iff (a w : Word) : carryOf a w = true ↔ 2 ^ 32 ≤ a.toNat + w.toNat := by
  have ha := a.isLt
  have hw := w.isLt
  simp only [carryOf, ltu, BitVec.ult, decide_eq_true_eq, BitVec.toNat_add]
  omega

/-- The branch is taken exactly when the old mix is below the word as integers (R153). -/
theorem takeOf_iff (a w : Word) : takeOf a w = true ↔ a.toNat < w.toNat := by
  simp [takeOf, ltu, BitVec.ult]

/-- The wrapped sum is below the old value exactly when the integer sum reaches 2^32 (R151). -/
theorem add_toNat_lt_iff (a w : Word) : (a + w).toNat < a.toNat ↔ 2 ^ 32 ≤ a.toNat + w.toNat := by
  rw [← carryOf_iff]
  simp [carryOf, ltu, BitVec.ult]

/-- The low five bits as an integer (R152). -/
theorem low_five_bits (w : Word) : (w &&& 0x1F).toNat = w.toNat % 32 := by
  rw [BitVec.toNat_and]
  exact Nat.and_two_pow_sub_one_eq_mod w.toNat 5

/-- The rotation of step c (R11, R152). -/
theorem rotl32_eq_rotateLeft (w : Word) {k : Nat} (hk : k < 32) : rotl32 w k = w.rotateLeft k := by
  rw [rotl32, BitVec.rotateLeft, Nat.mod_eq_of_lt hk, BitVec.rotateLeftAux]

theorem mixedOf_eq (w : Word) : mixedOf w = w.rotateLeft (w.toNat % 32) := by
  rw [mixedOf, low_five_bits, rotl32_eq_rotateLeft w (Nat.mod_lt _ (by omega))]

@[simp] theorem mixedOf_zero : mixedOf 0 = 0 := by decide

/-- Big-endian is concatenation, the first byte at the top (R72). -/
theorem bigEndian_eq_append (b0 b1 b2 b3 : Byte) : bigEndian b0 b1 b2 b3 = b0 ++ b1 ++ b2 ++ b3 := by
  apply BitVec.eq_of_getLsbD_eq
  intro i hi
  simp only [bigEndian, BitVec.getLsbD_or, BitVec.getLsbD_shiftLeft, BitVec.getLsbD_setWidth, BitVec.getLsbD_append]
  by_cases h8 : i < 8
  · simp [h8, show i < 16 by omega, show i < 24 by omega, show i < 32 by omega]
  · have z : ∀ b : Byte, b.getLsbD i = false := fun b => BitVec.getLsbD_of_ge b i (by omega)
    by_cases h16 : i < 16
    · simp [h8, z, show i < 16 by omega, show i < 24 by omega, show i < 32 by omega, show i - 8 < 8 by omega,
        show i - 8 < 32 by omega]
    · have z1 : ∀ b : Byte, b.getLsbD (i - 8) = false := fun b => BitVec.getLsbD_of_ge b _ (by omega)
      by_cases h24 : i < 24
      · simp [h8, z, z1, h16, show i < 24 by omega, show i < 32 by omega, show ¬ i - 8 < 8 by omega,
          show i - 16 < 32 by omega, Nat.sub_sub]
        intro; omega
      · have z2 : ∀ b : Byte, b.getLsbD (i - 16) = false := fun b => BitVec.getLsbD_of_ge b _ (by omega)
        simp [h8, z, z1, z2, h16, h24, show i < 32 by omega, show ¬ i - 8 < 8 by omega,
          show i - 24 < 32 by omega, Nat.sub_sub]
        omega

/-- The second pointer's cycle, one advance (R156): masking wraps the 64th word back to the first. -/
theorem x105Next_cycle (k : Nat) (hk : k < 64) :
    x105Next (x105Ptr0 + BitVec.ofNat 32 (4 * k)) = x105Ptr0 + BitVec.ofNat 32 (4 * ((k + 1) % 64)) := by
  have key : ∀ k : Fin 64, x105Next (x105Ptr0 + BitVec.ofNat 32 (4 * k.1)) =
      x105Ptr0 + BitVec.ofNat 32 (4 * ((k.1 + 1) % 64)) := by decide
  exact key ⟨k, hk⟩

/-- The ROM offset of the second pointer (R79). -/
theorem romOffX105_cycle (k : Nat) (hk : k < 64) :
    (romOffX105 (x105Ptr0 + BitVec.ofNat 32 (4 * k))).toNat = 0x750 + 4 * k := by
  have key : ∀ k : Fin 64, (romOffX105 (x105Ptr0 + BitVec.ofNat 32 (4 * k.1))).toNat = 0x750 + 4 * k.1 := by decide
  exact key ⟨k, hk⟩

/-- The cursor's offset does not depend on the entrypoint (R78). -/
theorem romOffMain_cursor (epr d : Word) : romOffMain epr (epr + d) = d + 0x1000 := by
  rw [romOffMain, BitVec.add_comm epr d, BitVec.add_sub_cancel]; rfl

end Sys2Proof.Machine
end

