-- ==== Sys2Proof/Laws/PerInstr.lean ====
section
/-! SUPPORT. Statements made for every command, one lemma per constructor. Family `CommandWord`: the command's word is
well formed, and its own fields, latched as `OPL` and `VL`, name it again (R33, R105). -/

/-- What holds of every command's word: its fields pass the checks, its reserved bits are 0 (R103), and the sequencer
reads the command back from the latched `OP` and `VSEL` fields (R33). -/
def Sys2Proof.Laws.CommandWord.Statement (i : Sys2Proof.Instr) : Prop :=
  Sys2Proof.instrWellFormed i = true ∧
    (Sys2Proof.encode i).extractLsb' 8 24 = 0 ∧
    Sys2Proof.Machine.latchedInstr ((Sys2Proof.encode i).extractLsb' 0 4) ((Sys2Proof.encode i).extractLsb' 4 4) =
      some i

theorem Sys2Proof.Laws.CommandWord.checksum6101 :
    Sys2Proof.Laws.CommandWord.Statement .checksum6101 := ⟨by decide, by decide, by decide⟩

theorem Sys2Proof.Laws.CommandWord.checksum6102_7101 :
    Sys2Proof.Laws.CommandWord.Statement .checksum6102_7101 := ⟨by decide, by decide, by decide⟩

theorem Sys2Proof.Laws.CommandWord.checksum7102 :
    Sys2Proof.Laws.CommandWord.Statement .checksum7102 := ⟨by decide, by decide, by decide⟩

theorem Sys2Proof.Laws.CommandWord.checksumX103 :
    Sys2Proof.Laws.CommandWord.Statement .checksumX103 := ⟨by decide, by decide, by decide⟩

theorem Sys2Proof.Laws.CommandWord.checksumX105 :
    Sys2Proof.Laws.CommandWord.Statement .checksumX105 := ⟨by decide, by decide, by decide⟩

theorem Sys2Proof.Laws.CommandWord.checksumX106 :
    Sys2Proof.Laws.CommandWord.Statement .checksumX106 := ⟨by decide, by decide, by decide⟩

theorem Sys2Proof.Laws.CommandWord.detectIpl3 :
    Sys2Proof.Laws.CommandWord.Statement .detectIpl3 := ⟨by decide, by decide, by decide⟩

theorem Sys2Proof.Laws.CommandWord.detectRom :
    Sys2Proof.Laws.CommandWord.Statement .detectRom := ⟨by decide, by decide, by decide⟩

theorem Sys2Proof.Laws.CommandWord.resolveAlias :
    Sys2Proof.Laws.CommandWord.Statement .resolveAlias := ⟨by decide, by decide, by decide⟩
end

