-- ==== Sys2Proof/Laws/Run.lean ====
section
/-! SUPPORT. Runs of many steps, and the engine's loop by one induction: after `CK_INIT` and `n` iterations the working
registers are those of the reference loop. -/

namespace Sys2Proof.Machine

/-! ### Runs -/

theorem runsTo_zero {s t : State} : RunsTo 0 s t ↔ t = s := by
  constructor
  · intro h; exact (Host.Outcome.next.inj h).symm
  · rintro rfl; rfl

/-- A run of one step more takes that step first, on any machine. -/
theorem coreRun_succ (M : Host.Core) (n : Nat) (s t : M.State) :
    M.run (n + 1) s = .next t ↔ ∃ u, M.step s = .next u ∧ M.run n u = .next t := by
  rw [Host.Core.run]
  cases h : M.step s with
  | next u =>
    constructor
    · exact fun ht => ⟨u, rfl, ht⟩
    · rintro ⟨u', hu, ht⟩
      rw [Host.Outcome.next.inj hu]
      exact ht
  | fault r => simp
  | refused r => simp

theorem runsTo_succ {n : Nat} {s t : State} : RunsTo (n + 1) s t ↔ ∃ u, step s = .next u ∧ RunsTo n u t :=
  coreRun_succ Sys2Proof.core n s t

theorem runsTo_one {s t : State} : RunsTo 1 s t ↔ step s = .next t := by
  rw [runsTo_succ]
  constructor
  · rintro ⟨u, hu, ht⟩; rw [runsTo_zero.1 ht]; exact hu
  · exact fun h => ⟨t, h, runsTo_zero.2 rfl⟩

theorem runsTo_trans {m n : Nat} {s u t : State} (h1 : RunsTo m s u) (h2 : RunsTo n u t) : RunsTo (m + n) s t := by
  induction m generalizing s with
  | zero => rw [Nat.zero_add, ← runsTo_zero.1 h1]; exact h2
  | succ m ih =>
    obtain ⟨v, hv, h1⟩ := runsTo_succ.1 h1
    rw [Nat.add_right_comm]
    exact runsTo_succ.2 ⟨v, hv, ih h1⟩

/-- One more step at the end. -/
theorem runsTo_snoc {n : Nat} {s u t : State} (h1 : RunsTo n s u) (h2 : step u = .next t) : RunsTo (n + 1) s t :=
  runsTo_trans h1 (runsTo_one.2 h2)

/-- A run leads to one state. -/
theorem runsTo_unique {n : Nat} {s t u : State} (h1 : RunsTo n s t) (h2 : RunsTo n s u) : t = u :=
  Host.Outcome.next.inj (h1.symm.trans h2)

/-! ### One iteration against the reference -/

/-- An iteration with the default feed is the reference's (R150 to R155, R157). -/
theorem workRegs_iterateDefault {v : Variant} (hv : v ≠ .x105) (w x : Word) (s : State) :
    (iterateDefault w s).workRegs = refIteration v w x s.workRegs := by
  have hm : mixedOf w = rotl32 w (w.toNat % 32) := by rw [mixedOf, low_five_bits]
  simp only [iterateDefault, State.workRegs, refIteration, feedAndAdvance_a3, feedAndAdvance_t2, feedAndAdvance_t3,
    feedAndAdvance_s0, feedAndAdvance_a2, feedAndAdvance_t4, mixRegisters_a3, mixRegisters_t2, mixRegisters_t3,
    mixRegisters_s0, mixRegisters_a2, mixRegisters_t4, carryOf_iff, takeOf_iff, add_toNat_lt_iff, hm, if_neg hv]
  congr

/-- An iteration with the `X105` feed is the reference's (R150 to R154, R156, R157). -/
theorem workRegs_iterateX105 (w x : Word) (s : State) :
    (iterateX105 w x s).workRegs = refIteration .x105 w x s.workRegs := by
  have hm : mixedOf w = rotl32 w (w.toNat % 32) := by rw [mixedOf, low_five_bits]
  simp only [iterateX105, State.workRegs, refIteration, feedAndAdvance_a3, feedAndAdvance_t2, feedAndAdvance_t3,
    feedAndAdvance_s0, feedAndAdvance_a2, feedAndAdvance_t4, advanceX105_a3, advanceX105_t2, advanceX105_t3,
    advanceX105_s0, advanceX105_a2, advanceX105_t4, mixRegisters_a3, mixRegisters_t2, mixRegisters_t3,
    mixRegisters_s0, mixRegisters_a2, mixRegisters_t4, carryOf_iff, takeOf_iff, add_toNat_lt_iff, hm, if_pos]
  congr

/-! ### The loop -/

/-- What a run leaves alone until its last step. -/
structure RunFrame (s t : State) : Prop where
  lenl : t.lenl = s.lenl
  opl : t.opl = s.opl
  vl : t.vl = s.vl
  errcode : t.errcode = s.errcode
  romLen : t.romLen = s.romLen
  result0 : t.result0 = s.result0
  result1 : t.result1 = s.result1
  detect : t.detect = s.detect
  aliasReg : t.aliasReg = s.aliasReg
  rom : t.rom = s.rom
  romStorage : t.romStorage = s.romStorage
  script : t.script = s.script
  rdata : t.rdata = s.rdata
  tainted : t.tainted = s.tainted
  draws : t.draws = s.draws

theorem RunFrame.refl (s : State) : RunFrame s s := ⟨rfl, rfl, rfl, rfl, rfl, rfl, rfl, rfl, rfl, rfl, rfl, rfl, rfl, rfl, rfl⟩

theorem RunFrame.trans {s u t : State} (h1 : RunFrame s u) (h2 : RunFrame u t) : RunFrame s t :=
  ⟨h2.lenl.trans h1.lenl, h2.opl.trans h1.opl, h2.vl.trans h1.vl, h2.errcode.trans h1.errcode,
    h2.romLen.trans h1.romLen, h2.result0.trans h1.result0, h2.result1.trans h1.result1, h2.detect.trans h1.detect,
    h2.aliasReg.trans h1.aliasReg, h2.rom.trans h1.rom, h2.romStorage.trans h1.romStorage, h2.script.trans h1.script,
    h2.rdata.trans h1.rdata, h2.tainted.trans h1.tainted, h2.draws.trans h1.draws⟩

theorem runFrame_seedRegisters (v : Variant) (e : Word) (s : State) : RunFrame s (seedRegisters v e s) :=
  ⟨rfl, rfl, rfl, rfl, rfl, rfl, rfl, rfl, rfl, rfl, rfl, rfl, rfl, rfl, rfl⟩

theorem runFrame_iterateDefault (w : Word) (s : State) : RunFrame s (iterateDefault w s) :=
  ⟨rfl, rfl, rfl, rfl, rfl, rfl, rfl, rfl, rfl, rfl, rfl, rfl, rfl, rfl, rfl⟩

theorem runFrame_iterateX105 (w x : Word) (s : State) : RunFrame s (iterateX105 w x s) :=
  ⟨rfl, rfl, rfl, rfl, rfl, rfl, rfl, rfl, rfl, rfl, rfl, rfl, rfl, rfl, rfl⟩

/-- The state of a checksum run of `v` on `m` after `CK_INIT` and `n` iterations. -/
structure EngineAt (v : Variant) (m : Memory) (n : Nat) (t : State) : Prop where
  regs : t.workRegs = refLoop v m (acc0 v) n
  count : t.t0 = BitVec.ofNat 32 (4 * n)
  cursor : t.t1 = t.epr + BitVec.ofNat 32 (4 * n)
  pointer : v = .x105 → t.s6 = x105Ptr0 + BitVec.ofNat 32 (4 * (n % 64))
  phase : t.phase = if n = ckIters then .ckFinal else .ckLoop

/-- With no host turn pending, a step of a checksum run is the engine's. -/
theorem step_of_checksum_run {v : Variant} {s : State} (hb : s.busy = true) (hl : s.latched = some (checksumOf v))
    (hs : s.script = []) : step s = checksumStep v s := by
  rw [step_of_nil hs, blockTurn_of_latched hb hl, exec_of_latched hb hl, advanceOf_checksumOf]

/-- `CK_INIT` on a long enough buffer starts the loop (R141 to R144). -/
theorem engine_starts {v : Variant} {s : State} (hp : s.phase = .ckInit) (hl : s.latched = some (checksumOf v))
    (hs : s.script = []) (hlen : 0x101000 ≤ s.lenl.toNat) (hst : 0x101000 ≤ s.romStorage) :
    ∃ t, step s = .next t ∧ EngineAt v s.rom 0 t ∧ RunFrame s t := by
  have hb : s.busy = true := by rw [State.busy, hp]; rfl
  refine ⟨seedRegisters v (s.rom.word 8) s, ?_, ?_, runFrame_seedRegisters _ _ _⟩
  · have hread : memRead32 epOff s = .next (s.rom.word 8) :=
      memRead32_of_le (by show 8 + 4 ≤ _; omega) (by show 8 + 4 ≤ _; omega)
    have hlt : ¬ s.lenl < ckMinLen := by
      rw [BitVec.lt_def]
      show ¬ s.lenl.toNat < 0x101000
      omega
    rw [step_of_checksum_run hb hl hs, checksumStep, hp]
    show ckInit v s = _
    rw [ckInit, if_neg hlt, hread, andThen_next]
  · exact
      { regs := rfl
        count := rfl
        cursor := (BitVec.add_zero _).symm
        pointer := fun hv => by rw [seedRegisters_s6, if_pos hv]; exact (BitVec.add_zero _).symm
        phase := by rw [seedRegisters_phase, if_neg (by simp [ckIters])] }

/-- The main-stream read of iteration `n` (R78, R150). -/
theorem engine_main_offset {v : Variant} {m : Memory} {n : Nat} {t : State} (h : EngineAt v m n t)
    (hn : n < ckIters) : (romOffMain t.epr t.t1).toNat = 0x1000 + 4 * n := by
  have hn : n < 0x40000 := hn
  rw [h.cursor, romOffMain_cursor, BitVec.toNat_add, BitVec.toNat_ofNat]
  show (4 * n % 2 ^ 32 + 0x1000) % 2 ^ 32 = _
  omega

/-- One iteration of the run (R150 to R158). -/
theorem engine_iterates_once {v : Variant} {n : Nat} {s : State} (h : EngineAt v s.rom n s) (hn : n < ckIters)
    (hl : s.latched = some (checksumOf v)) (hs : s.script = []) (hlen : 0x101000 ≤ s.lenl.toNat)
    (hst : 0x101000 ≤ s.romStorage) :
    ∃ t, step s = .next t ∧ EngineAt v s.rom (n + 1) t ∧ RunFrame s t := by
  have hn' : n < 0x40000 := hn
  have hp : s.phase = .ckLoop := by rw [h.phase, if_neg (by omega)]
  have hb : s.busy = true := by rw [State.busy, hp]; rfl
  have hoff := engine_main_offset h hn
  have hread : memReadStream (romOffMain s.epr s.t1) s = .next (mainWord s.rom n) := by
    rw [memReadStream_of_le (by omega) (by omega) (by omega), hoff]; rfl
  have hcount : s.t0 + 4 = BitVec.ofNat 32 (4 * (n + 1)) := by
    rw [h.count]
    apply BitVec.eq_of_toNat_eq
    rw [BitVec.toNat_add, BitVec.toNat_ofNat, BitVec.toNat_ofNat]
    show (4 * n % 2 ^ 32 + 4) % 2 ^ 32 = _
    omega
  have hcursor : s.t1 + 4 = s.epr + BitVec.ofNat 32 (4 * (n + 1)) := by
    rw [← hcount, h.count, h.cursor, BitVec.add_assoc]
  have hend : (s.t0 + 4 = ckBytes) ↔ n + 1 = ckIters := by
    rw [hcount, ← BitVec.toNat_inj, BitVec.toNat_ofNat]
    show 4 * (n + 1) % 2 ^ 32 = 0x100000 ↔ n + 1 = 0x40000
    omega
  have hstep : step s = ckLoop v s := by
    rw [step_of_checksum_run hb hl hs, checksumStep, hp]
  rw [hstep, ckLoop, hread, andThen_next]
  by_cases hv : v = .x105
  · subst hv
    have hs6 := h.pointer rfl
    have hoff2 : (romOffX105 s.s6).toNat = 0x750 + 4 * (n % 64) := by
      rw [hs6, romOffX105_cycle _ (Nat.mod_lt _ (by omega))]
    have hread2 : memReadStream (romOffX105 s.s6) s = .next (secondWord s.rom n) := by
      rw [memReadStream_of_le (by omega) (by omega) (by omega), hoff2]; rfl
    refine ⟨iterateX105 (mainWord s.rom n) (secondWord s.rom n) s, ?_, ?_, runFrame_iterateX105 _ _ _⟩
    · rw [if_pos rfl, hread2, andThen_next]
    · exact
        { regs := by rw [workRegs_iterateX105, h.regs]; rfl
          count := hcount
          cursor := hcursor
          pointer := fun _ => by
            show x105Next s.s6 = _
            rw [hs6, x105Next_cycle _ (Nat.mod_lt _ (by omega)), Nat.mod_add_mod]
          phase := by
            show (if s.t0 + 4 = ckBytes then Phase.ckFinal else Phase.ckLoop) = _
            by_cases he : n + 1 = ckIters
            · rw [if_pos (hend.2 he), if_pos he]
            · rw [if_neg (fun h => he (hend.1 h)), if_neg he] }
  · refine ⟨iterateDefault (mainWord s.rom n) s, ?_, ?_, runFrame_iterateDefault _ _⟩
    · rw [if_neg hv]
    · exact
        { regs := by rw [workRegs_iterateDefault hv _ (secondWord s.rom n), h.regs]; rfl
          count := hcount
          cursor := hcursor
          pointer := fun h => absurd h hv
          phase := by
            show (if s.t0 + 4 = ckBytes then Phase.ckFinal else Phase.ckLoop) = _
            by_cases he : n + 1 = ckIters
            · rw [if_pos (hend.2 he), if_pos he]
            · rw [if_neg (fun h => he (hend.1 h)), if_neg he] }

/-- The loop of a run, by induction on its iterations: `CK_INIT` and `n` iterations lead to the reference loop's
registers, with everything else of the run unchanged. -/
theorem engine_runs {v : Variant} {s : State} (hp : s.phase = .ckInit) (hl : s.latched = some (checksumOf v))
    (hs : s.script = []) (hlen : 0x101000 ≤ s.lenl.toNat) (hst : 0x101000 ≤ s.romStorage) (n : Nat)
    (hn : n ≤ ckIters) :
    ∃ t, RunsTo (n + 1) s t ∧ EngineAt v s.rom n t ∧ RunFrame s t := by
  induction n with
  | zero =>
    obtain ⟨t, ht, he, hf⟩ := engine_starts hp hl hs hlen hst
    exact ⟨t, runsTo_one.2 ht, he, hf⟩
  | succ n ih =>
    obtain ⟨u, hu, he, hf⟩ := ih (by omega)
    rw [← hf.rom] at he
    obtain ⟨t, ht, he', hf'⟩ := engine_iterates_once he (by omega)
      (by rw [State.latched, hf.opl, hf.vl]; exact hl) (hf.script.trans hs) (by rw [hf.lenl]; exact hlen)
      (by rw [hf.romStorage]; exact hst)
    exact ⟨t, runsTo_snoc hu ht, by rw [hf.rom] at he'; exact he', hf.trans hf'⟩

/-- The last step of a run (R160 to R164). -/
theorem engine_ends {v : Variant} {s : State} (h : EngineAt v s.rom ckIters s)
    (hl : s.latched = some (checksumOf v)) (hs : s.script = []) :
    step s = .next (writeResults (refWordsFrom v s.rom (acc0 v)).1 (refWordsFrom v s.rom (acc0 v)).2 s) := by
  have hp : s.phase = .ckFinal := by rw [h.phase, if_pos rfl]
  have hb : s.busy = true := by rw [State.busy, hp]; rfl
  have hr := h.regs
  rw [step_of_checksum_run hb hl hs, checksumStep, hp]
  show Host.Outcome.next _ = _
  have h0 : combine0 v s.a3 s.t2 s.t3 = (refWordsFrom v s.rom (acc0 v)).1 := by
    rw [refWordsFrom, ← hr]; rfl
  have h1 : combine1 v s.s0 s.a2 s.t4 = (refWordsFrom v s.rom (acc0 v)).2 := by
    rw [refWordsFrom, ← hr]; rfl
  rw [h0, h1]

/-! ### Whole runs from acceptance -/

/-- What acceptance of a `CHECKSUM` leaves (R240). -/
theorem accept_start {v : Variant} {s : State} (hb : s.busy = false) (hs : s.script = []) :
    ∃ t, exec (checksumOf v) s = .next t ∧ t.phase = .ckInit ∧ t.latched = some (checksumOf v) ∧ t.script = [] ∧
      t.tainted = false ∧ t.lenl = s.romLen ∧ t.romStorage = s.romStorage ∧ t.rom = s.rom ∧ t.result0 = 0 ∧
      t.result1 = 0 ∧ t.detect = 0 ∧ t.errcode = .noError := by
  refine ⟨_, exec_of_quiescent hb, ?_⟩
  rw [latchOf_checksumOf]
  exact ⟨rfl, latchedInstr_eq_checksumOf.2 ⟨rfl, rfl⟩, hs, rfl, rfl, rfl, rfl, rfl, rfl, rfl, rfl⟩

/-- A run on a buffer that is too short ends at once (R141). -/
theorem engine_rejects {v : Variant} {s : State} (hp : s.phase = .ckInit) (hl : s.latched = some (checksumOf v))
    (hs : s.script = []) (hlen : s.lenl.toNat < 0x101000) : step s = .next (raiseError .bufferTooSmall s) := by
  rw [step_of_checksum_run (by rw [State.busy, hp]; rfl) hl hs, checksumStep, hp]
  show ckInit v s = _
  rw [ckInit, if_pos (show s.lenl < ckMinLen from hlen)]

/-- A run on a buffer that is long enough: the loop, then the last step with the reference's words. -/
theorem engine_completes {v : Variant} {s : State} (hp : s.phase = .ckInit) (hl : s.latched = some (checksumOf v))
    (hs : s.script = []) (hlen : 0x101000 ≤ s.lenl.toNat) (hst : 0x101000 ≤ s.romStorage) :
    ∃ u, RunsTo 0x40001 s u ∧ EngineAt v s.rom ckIters u ∧ RunFrame s u ∧
      RunsTo 0x40002 s (writeResults (refWordsFrom v s.rom (acc0 v)).1 (refWordsFrom v s.rom (acc0 v)).2 u) := by
  obtain ⟨u, hu, he, hf⟩ := engine_runs hp hl hs hlen hst ckIters (Nat.le_refl _)
  refine ⟨u, hu, he, hf, ?_⟩
  have he' := he
  rw [← hf.rom] at he'
  have hend := engine_ends he' (by rw [State.latched, hf.opl, hf.vl]; exact hl) (hf.script.trans hs)
  rw [hf.rom] at hend
  exact runsTo_snoc hu hend

/-! ### The reference reads its windows only -/

/-- The reference loop reads the checksummed window, and for `X105` the second one (R81). -/
theorem refLoop_congr {v : Variant} {m n : Memory} (acc : Word)
    (h : ∀ a, 0x1000 ≤ a → a < 0x101000 → m.read a = n.read a)
    (h2 : v = .x105 → ∀ a, 0x750 ≤ a → a < 0x850 → m.read a = n.read a) (k : Nat) (hk : k ≤ ckIters) :
    refLoop v m acc k = refLoop v n acc k := by
  have hc : ckIters = 0x40000 := rfl
  induction k with
  | zero => rfl
  | succ k ih =>
    have e1 : mainWord m k = mainWord n k := Memory.word_congr fun j hj => h _ (by omega) (by omega)
    rw [refLoop, refLoop, ih (by omega), e1]
    by_cases hv : v = .x105
    · have e2 : secondWord m k = secondWord n k := Memory.word_congr fun j hj => h2 hv _ (by omega) (by omega)
      rw [e2]
    · simp only [refIteration, if_neg hv]

theorem refWords_congr {v : Variant} {m n : Memory} (acc : Word)
    (h : ∀ a, 0x1000 ≤ a → a < 0x101000 → m.read a = n.read a)
    (h2 : v = .x105 → ∀ a, 0x750 ≤ a → a < 0x850 → m.read a = n.read a) :
    refWordsFrom v m acc = refWordsFrom v n acc := by
  rw [refWordsFrom, refWordsFrom, refLoop_congr acc h h2 _ (Nat.le_refl _)]

end Sys2Proof.Machine
end

