-- ==== Sys2Proof/Tests/Slice0.lean ====
section
/-! SUPPORT. The model's own tests. Expected values are those of spec/95_test_vectors.md (the vector's name is cited) or
worked out by hand from the rules. After the tests, a named witness for every obligation that has hypotheses. -/

namespace Sys2Proof.Tests

open Sys2Proof Sys2Proof.Machine

/-! ### Well-formed command fields: each check refuses a term -/

theorem test_fields_ok : (CommandFields.mk 1 5 0).wellFormed = true := by decide

/-- `RSVD` nonzero (C7). -/
theorem test_fields_rsvd : (CommandFields.mk 1 1 1).rsvdZero = false ∧ (CommandFields.mk 1 1 1).wellFormed = false := by
  decide

/-- `OP` 0, 5 and 15 are reserved (C1, C2, C3). -/
theorem test_fields_op :
    (CommandFields.mk 0 0 0).opAssigned = false ∧ (CommandFields.mk 5 0 0).opAssigned = false ∧
      (CommandFields.mk 15 0 0).opAssigned = false ∧ (CommandFields.mk 0 0 0).wellFormed = false := by decide

/-- A variant code with `OP` 2 (C4). -/
theorem test_fields_vsel :
    (CommandFields.mk 2 1 0).vselZeroUnlessChecksum = false ∧ (CommandFields.mk 2 1 0).wellFormed = false := by decide

/-- Variant code 6 (C5). -/
theorem test_fields_variant :
    (CommandFields.mk 1 6 0).vselNamesVariant = false ∧ (CommandFields.mk 1 6 0).wellFormed = false := by decide

/-! ### Decoding: words written out from R100, R101, R106 as `RSVD ++ VSEL ++ OP` -/

theorem test_decode_checksum6101 : decode (0#24 ++ 0b0000#4 ++ 0b0001#4) = .legal .checksum6101 := by decide
theorem test_decode_checksum6102_7101 : decode (0#24 ++ 0b0001#4 ++ 0b0001#4) = .legal .checksum6102_7101 := by decide
theorem test_decode_checksum7102 : decode (0#24 ++ 0b0010#4 ++ 0b0001#4) = .legal .checksum7102 := by decide
theorem test_decode_checksumX103 : decode (0#24 ++ 0b0011#4 ++ 0b0001#4) = .legal .checksumX103 := by decide
theorem test_decode_checksumX105 : decode (0#24 ++ 0b0100#4 ++ 0b0001#4) = .legal .checksumX105 := by decide
theorem test_decode_checksumX106 : decode (0#24 ++ 0b0101#4 ++ 0b0001#4) = .legal .checksumX106 := by decide
theorem test_decode_detectIpl3 : decode (0#24 ++ 0b0000#4 ++ 0b0010#4) = .legal .detectIpl3 := by decide
theorem test_decode_detectRom : decode (0#24 ++ 0b0000#4 ++ 0b0011#4) = .legal .detectRom := by decide
theorem test_decode_resolveAlias : decode (0#24 ++ 0b0000#4 ++ 0b0100#4) = .legal .resolveAlias := by decide

/-- Vectors C1 to C8. -/
theorem test_decode_errors :
    decode 0x00000000 = .illegalCommand ∧ decode 0x00000005 = .illegalCommand ∧
      decode 0x0000000F = .illegalCommand ∧ decode 0x00000012 = .illegalCommand ∧
      decode 0x00000061 = .unrecognizedVariant ∧ decode 0x000000F1 = .unrecognizedVariant ∧
      decode 0x00000111 = .illegalCommand ∧ decode 0x80000061 = .illegalCommand := by decide

/-- The table's numbering of a word's bits. -/
theorem test_table_word : decodeTableWord 32 0x51 = some .checksumX106 ∧ decodeTableWord 32 0x61 = none := by decide

/-! ### Small states -/

/-- The host has one turn pending. -/
def pending (act : HostAction) (s : State) : State := { s with script := [act] }

/-- A checksum run of `v` in phase `p`, latched length `len`. -/
def running (v : Variant) (p : Phase) (len : Word) : State :=
  { State.reset with phase := p, opl := 1, vl := variantCode v, lenl := len, romLen := len }

/-- The ROM contents with one word placed. -/
def withWord (a : Nat) (w : Word) (s : State) : State := { s with rom := s.rom.writeWord a w }

/-- A checksum run of `v` in `CK_LOOP` before its first iteration, with the given working registers, entrypoint
0x80000400 and word `w` at 0x1000. -/
def atFirst (v : Variant) (r : WorkRegs) (w : Word) : State :=
  withWord 0x1000 w { running v .ckLoop 0x101000 with
    a3 := r.a3, t2 := r.t2, t3 := r.t3, s0 := r.s0, a2 := r.a2, t4 := r.t4
    ep := 0x80000400, epr := 0x80000400 + epAdj v, t0 := 0, t1 := 0x80000400 + epAdj v, s6 := x105Ptr0 }

/-- A checksum run of `v` in `CK_LOOP` before its last iteration. -/
def atLast (v : Variant) : State :=
  { atFirst v ⟨1, 2, 3, 4, 5, 6⟩ 7 with
    t0 := 0xFFFFC, t1 := 0x80000400 + epAdj v + 0xFFFFC, s6 := 0xA00002FC }

/-- A checksum run of `v` in `CK_FINAL` with the working registers of section 3.4 of the vectors. -/
def atEnd (v : Variant) : State :=
  { atFirst v ⟨0x12345678, 3, 0xCAFEBABE, 0x89ABCDEF, 0x0F0F0F0F, 0xFFFFFFF0⟩ 0 with
    phase := .ckFinal, t0 := 0x100000, t1 := 0x80000400 + epAdj v + 0x100000 }

/-- A detection in `DET_HASH`: `op` 2 or 3, latched length `len`. -/
def detecting (op : BitVec 4) (len : Word) : State :=
  { State.reset with phase := .detHash, opl := op, lenl := len, romLen := len }

/-- A `RESOLVE_ALIAS` in `AL_MAP` on the number `n`. -/
def resolving (n : Word) : State := { State.reset with phase := .alMap, opl := 4, aliasReg := n }

/-- The same run with the buffer changed under it. -/
def changed (s : State) : State := { s with tainted := true }

/-- The working registers after a step. -/
def regsAfter (o : Result State) : Option WorkRegs := (nextOf? o).map State.workRegs

/-- The two result words after a step. -/
def wordsAfter (o : Result State) : Option (Word × Word) := (nextOf? o).map fun t => (t.result0, t.result1)

/-- What the host can observe after a step. -/
def seenAfter (o : Result State) : Option Observation := (nextOf? o).map State.observe

/-! ### Arithmetic of the engine -/

/-- The table of section 3.2. -/
theorem test_rotate :
    mixedOf 0x00000000 = 0x00000000 ∧ mixedOf 0x00000001 = 0x00000002 ∧ mixedOf 0x0000001F = 0x8000000F ∧
      mixedOf 0x00000020 = 0x00000020 ∧ mixedOf 0x80000000 = 0x80000000 ∧ mixedOf 0xFFFFFFFF = 0xFFFFFFFF ∧
      mixedOf 0x12345678 = 0x78123456 ∧ mixedOf 0xDEADBEEF = 0xDF77EF56 ∧ mixedOf 0x0000003F = 0x8000001F ∧
      mixedOf 0x7FFFFFE1 = 0xFFFFFFC2 := by decide

/-- Section 3.1 (the one row with the source's own parameters). -/
theorem test_acc0 : acc0 .v6102_7101 = 0xF8CA4DDC := by decide

/-- Section 3.5. -/
theorem test_pointer :
    x105Next 0xA0000200 = 0xA0000204 ∧ x105Next 0xA00002FC = 0xA0000200 ∧ romOffX105 0xA0000200 = 0x750 ∧
      romOffX105 0xA0000208 = 0x758 ∧ romOffX105 0xA00002FC = 0x84C := by decide

/-- Bytes F8, CA, 4D, DC at 0x10 to 0x13 (S10). -/
theorem test_patch_bytes :
    Memory.patch [] 0xF8CA4DDC 0x303A4DDC =
      [(0x10, 0xF8), (0x11, 0xCA), (0x12, 0x4D), (0x13, 0xDC), (0x14, 0x30), (0x15, 0x3A), (0x16, 0x4D), (0x17, 0xDC)] := by
  decide

/-- Writing the byte an unlisted offset reads as removes the cell. -/
theorem test_write_zero : Memory.write [(3, 7), (5, 9)] 5 0 = [(3, 7)] ∧ Memory.write [(5, 9)] 3 0 = [(5, 9)] := by decide

/-- Vectors A1 to A13. -/
theorem test_alias_table :
    aliasOf 0x17D5 = some .v6101 ∧ aliasOf 0x17D6 = some .v6102_7101 ∧ aliasOf 0x1BBD = some .v6102_7101 ∧
      aliasOf 0x1BBE = some .v7102 ∧ aliasOf 0x17D7 = some .x103 ∧ aliasOf 0x1BBF = some .x103 ∧
      aliasOf 0x17D9 = some .x105 ∧ aliasOf 0x1BC1 = some .x105 ∧ aliasOf 0x17DA = some .x106 ∧
      aliasOf 0x1BC2 = some .x106 ∧ aliasOf 0x13ED = none ∧ aliasOf 0 = none ∧ aliasOf 0x6102 = none := by decide

/-! ### One step of each command -/

/-- U1. -/
theorem test_checksum6101_carry :
    regsAfter (exec .checksum6101 (atFirst .v6101 ⟨0xFFFFFFFF, 5, 0, 0, 0xFFFFFFFF, 0⟩ 1)) =
      some ⟨0, 6, 1, 2, 0xFFFFFFFD, 3⟩ := by decide

/-- U4: equality takes the false arm. -/
theorem test_checksum6101_equal :
    regsAfter (exec .checksum6101 (atFirst .v6101 ⟨0x10, 0, 0, 0, 0x80000000, 0⟩ 0x80000000)) =
      some ⟨0x80000010, 0, 0x80000000, 0x80000000, 0, 0⟩ := by decide

/-- The first iteration on `P1` (section 3.8). -/
theorem test_checksum6102_trace :
    regsAfter (exec .checksum6102_7101 (atFirst .v6102_7101
      ⟨0xF8CA4DDC, 0xF8CA4DDC, 0xF8CA4DDC, 0xF8CA4DDC, 0xF8CA4DDC, 0xF8CA4DDC⟩ 0xF01B3A78)) =
      some ⟨0xE8E58854, 0xF8CA4DDD, 0x08D177A4, 0x71BA6916, 0x803A56E6, 0x7A6BA14A⟩ := by decide

/-- The default combiner (section 3.4). -/
theorem test_checksum6102_final :
    wordsAfter (exec .checksum6102_7101 (atEnd .v6102_7101)) = some (0xD8CAECC5, 0x795B3D10) := by decide

/-- U3. -/
theorem test_checksum7102_wrap :
    regsAfter (exec .checksum7102 (atFirst .v7102 ⟨1, 0xFFFFFFFF, 0, 0, 0, 0⟩ 0xFFFFFFFF)) =
      some ⟨0, 0, 0xFFFFFFFF, 0xFFFFFFFF, 0xFFFFFFFF, 0⟩ := by decide

/-- U6: the feed reads the new `s0`. -/
theorem test_checksum7102_feed :
    regsAfter (exec .checksum7102 (atFirst .v7102 ⟨0, 0, 0, 0xFFFFFFFF, 0xFFFFFFFF, 0xFFFFFFFF⟩ 2)) =
      some ⟨2, 0, 2, 7, 0xFFFFFFF7, 4⟩ := by decide

/-- Section 3.6: the entrypoint offset of `X103`, read from bytes 8 to 11. -/
theorem test_checksumX103_init :
    (nextOf? (exec .checksumX103 (withWord 8 0x80000400 (running .x103 .ckInit 0x101000)))).map
      (fun t => (t.ep, t.epr, t.t1, t.t0, t.phase)) = some (0x80000400, 0x7FF00400, 0x7FF00400, 0, .ckLoop) := by decide

/-- The combiner of `X103` (section 3.4). -/
theorem test_checksumX103_final :
    wordsAfter (exec .checksumX103 (atEnd .x103)) = some (0xDD331139, 0x86A4C2D0) := by decide

/-- U7, with the second-stream word at 0x750. -/
theorem test_checksumX105_feed :
    regsAfter (exec .checksumX105 (withWord 0x750 0xFFFF0000 (atFirst .x105 ⟨0, 0, 0, 0, 0, 0x10⟩ 0xFFFF))) =
      some ⟨0xFFFF, 0, 0xFFFF, 0x80007FFF, 0, 0xF⟩ := by decide

/-- The last iteration: the pointer is back at its start, `t0` is 0x100000 (section 3.5, R158). -/
theorem test_checksumX105_last :
    (nextOf? (exec .checksumX105 (atLast .x105))).map (fun t => (t.s6, t.t0, t.t1, t.phase)) =
      some (0xA0000200, 0x100000, 0x80100400, .ckFinal) := by decide

/-- The combiner of `X106`: the product is truncated (section 3.4). -/
theorem test_checksumX106_final :
    wordsAfter (exec .checksumX106 (atEnd .x106)) = some (0x019BBE26, 0x342311F1) := by decide

/-- E2: one byte short. -/
theorem test_checksumX106_short :
    seenAfter (exec .checksumX106 (running .x106 .ckInit 0x100FFF)) = some ⟨3, 1, 0, 0, 0⟩ := by decide

/-- D6. -/
theorem test_detectIpl3_short : seenAfter (exec .detectIpl3 (detecting 2 0xFBF)) = some ⟨3, 1, 0, 0, 0⟩ := by decide

/-- D7. -/
theorem test_detectRom_short : seenAfter (exec .detectRom (detecting 3 0xFFF)) = some ⟨3, 1, 0, 0, 0⟩ := by decide

/-- A3. -/
theorem test_resolveAlias_7101 : seenAfter (exec .resolveAlias (resolving 0x1BBD)) = some ⟨2, 0, 0, 0, 0x101⟩ := by decide

/-- A11 (PR-6). -/
theorem test_resolveAlias_5101 : seenAfter (exec .resolveAlias (resolving 0x13ED)) = some ⟨3, 2, 0, 0, 0⟩ := by decide

/-! ### One step of the system -/

/-- C4: rejected at acceptance, with no step of the block. -/
theorem test_step_illegal :
    seenAfter (step (pending (.write 0x00 .w32 0x12) State.reset)) = some ⟨3, 3, 0, 0, 0⟩ := by decide

/-- C5: decode before the length check. -/
theorem test_step_unrecognized :
    seenAfter (step (pending (.write 0x00 .w32 0x61) State.reset)) = some ⟨3, 2, 0, 0, 0⟩ := by decide

/-- C9: a command while `BUSY` is ignored. -/
theorem test_step_busy_command :
    nextOf? (step (pending (.write 0x00 .w32 0x03) (running .v6101 .ckLoop 0x101000))) =
      some (running .v6101 .ckLoop 0x101000) := by decide

/-- C10: accepted from `ERROR`, the length latched. -/
theorem test_step_accept :
    (nextOf? (step (pending (.write 0x00 .w32 0x11)
      { State.reset with phase := .error, errcode := .bufferTooSmall, romLen := 0x101000 }))).map
      (fun t => (t.observe, t.phase, t.lenl, t.opl, t.vl)) = some (⟨1, 0, 0, 0, 0⟩, .ckInit, 0x101000, 1, 1) := by decide

/-- R37, R44: `CMD` and the reserved offsets read 0. -/
theorem test_step_read :
    (nextOf? (step (pending (.read 0x00 .w32) (atEnd .x106)))).map State.rdata = some 0 ∧
      (nextOf? (step (pending (.read 0x3C .w32) (atEnd .x106)))).map State.rdata = some 0 ∧
      (nextOf? (step (pending (.read 0x04 .w32) (atEnd .x106)))).map State.rdata = some 1 ∧
      (nextOf? (step (pending (.read 0x0C .w32) (atEnd .x106)))).map State.rdata = some 0x101000 := by decide

/-- R290, R70: a byte of the buffer changed while `BUSY` marks the run; one at `LENL`, or one written as it was, does
not. -/
theorem test_mark :
    (nextOf? (step (pending (.romByte 0xFFF 1) (detecting 3 0x1000)))).map State.tainted = some true ∧
      (nextOf? (step (pending (.romByte 0x1000 1) (detecting 3 0x1000)))).map State.tainted = some false ∧
      (nextOf? (step (pending (.romByte 0xFFF 0) (detecting 3 0x1000)))).map State.tainted = some false ∧
      (nextOf? (step (pending (.romWord 0xFFD 1) (detecting 3 0x1000)))).map State.tainted = some false ∧
      (nextOf? (step (pending (.romFill 0xFFF []) (detecting 3 0x1000)))).map State.tainted = some true ∧
      (nextOf? (step (pending (.romFill 0x1000 []) (detecting 3 0x1000)))).map State.tainted = some false := by decide

/-- R241 (R70, U11): a host write at `LENL` during a run that fails leaves its results 0. -/
theorem test_beyond_keeps_zero :
    ((nextOf? (step (pending (.romByte 0xFBF 1) (detecting 2 0xFBF)))).bind fun t => seenAfter (step t)) =
      some ⟨3, 1, 0, 0, 0⟩ := by decide

/-- R77, R261: accesses that start below `CKBASE` and reach `CMD` are refused; ones that end just below it are not. -/
theorem test_bus_overlap (s : State) :
    busWrite (Config.ckbase + 0xFFFFFFFC) .w64 0x11 s = .refused .accessWidth ∧
      busRead (Config.ckbase + 0xFFFFFFFE) .w32 s = .refused .accessAlignment ∧
      busWrite (Config.ckbase + 0xFFFFFFFC) .w32 0x11 s = .next s ∧
      busRead (Config.ckbase + 0xFFFFFFF8) .w64 s = .next s := by
  have reach : ∀ (d e : Word) (w : Width) (b : Bool), d + e = 0 → decide (0 < e.toNat ∧ e.toNat < accessBytes w) = b →
      reachesWindow (Config.ckbase + d) w = b := fun d e w b h hb => (reachesWindow_add w h).trans hb
  exact
    ⟨(busAccess_of_reaches (windowOffset_add (by decide)) (reach _ 4 .w64 true (by decide) (by decide)) _ s).trans rfl,
      (busAccess_of_reaches (windowOffset_add (by decide)) (reach _ 2 .w32 true (by decide) (by decide)) _ s).trans rfl,
      busAccess_of_outside (windowOffset_add (by decide)) (reach _ 4 .w32 false (by decide) (by decide)) _ s,
      busAccess_of_outside (windowOffset_add (by decide)) (reach _ 8 .w64 false (by decide) (by decide)) _ s⟩

/-- U4, N8: a translation beyond the 0x101000-byte window faults, though `LENL` is longer. -/
theorem test_window : memReadStream 0x100FFD { detecting 2 0x200000 with romStorage := 0 } = .fault .romOutsideBuffer := rfl

/-- The placed command word is the next thing the machine runs. -/
theorem test_fetch : nextOf? (step (State.reset.withFetchWord 32 0x41)) = nextOf? (exec .checksumX105 State.reset) := by
  decide

/-! ### Witnesses: states and operands that meet the hypotheses of the obligations -/

/-- A legal word, a rejected one, and the bus address of `CMD`. -/
theorem witness_AcceptedWordRuns :
    (pending (.write 0x00 .w32 0x61) State.reset).script = .write 0x00 .w32 0x61 :: [] ∧
      (pending (.busWrite Config.ckbase .w32 0x05) State.reset).script = .busWrite Config.ckbase .w32 0x05 :: [] ∧
    (pending (.write 0x00 .w32 0x51) State.reset).script = .write 0x00 .w32 0x51 :: [] ∧
      (pending (.write 0x00 .w32 0x51) State.reset).busy = false ∧ decode 0x51 = .legal .checksumX106 :=
  ⟨rfl, rfl, rfl, rfl, by decide⟩

theorem witness_LatchedCommandRuns :
    (atEnd .x105).busy = true ∧ (atEnd .x105).latched = some .checksumX105 ∧ (atEnd .x105).script = [] ∧
      (pending .idle (atEnd .x105)).script = .idle :: [] ∧ (pending .idle (atEnd .x105)).busy = true ∧
      (pending .idle (atEnd .x105)).latched = some .checksumX105 ∧
      (pending .wait (resolving 0)).script = .wait :: [] ∧ (pending .wait (resolving 0)).busy = true ∧
      (pending .wait (resolving 0)).latched = some .resolveAlias := by decide

theorem witness_QuiescentBlockWaits :
    State.reset.phase = .idle ∧ State.reset.script = [] ∧
      (pending .idle { State.reset with phase := .done }).phase = .done ∧
      (pending .idle { State.reset with phase := .done }).script = .idle :: [] ∧
      (pending .wait { State.reset with phase := .error }).phase = .error ∧
      (pending .wait { State.reset with phase := .error }).script = .wait :: [] ∧
      (pending (.read 0x08 .w32) { State.reset with phase := .error }).script = .read 0x08 .w32 :: [] ∧
      (0x08 : Offset).toNat % 4 = 0 := by decide

theorem witness_PlacedCommandRuns : State.reset.busy = false ∧ decode 0x02 = .legal .detectIpl3 := by decide

/-- One word for each clause; the codes 6 and 15 are the ends of their range. -/
theorem witness_AcceptanceOfAWord :
    (atEnd .x105).busy = true ∧ State.reset.busy = false ∧ decode 0x00 = .illegalCommand ∧
      decode 0xFFFFFFFF = .illegalCommand ∧ decode 0x61 = .unrecognizedVariant ∧ decode 0xF1 = .unrecognizedVariant ∧
      decode 0x01 = .legal (checksumOf .v6101) ∧ decode 0x51 = .legal (checksumOf .x106) ∧
      decode 0x02 = .legal .detectIpl3 ∧ decode 0x03 = .legal .detectRom ∧ decode 0x04 = .legal .resolveAlias := by
  decide

/-- Both acceptance statements: every phase with no run in progress. -/
theorem witness_ChecksumIsAccepted :
    State.reset.busy = false ∧ State.busy { State.reset with phase := .done } = false ∧
      State.busy { State.reset with phase := .error } = false := by decide

theorem witness_DetectorIsAccepted : State.busy { atEnd .x105 with phase := .done } = false := by decide

theorem witness_BusyWritesIgnored :
    (pending (.write 0x00 .w32 1) (atEnd .x105)).busy = true ∧
      (pending (.write 0x00 .w32 1) (atEnd .x105)).script = .write 0x00 .w32 1 :: [] ∧
      (pending (.write 0x0C .w32 1) (detecting 2 0)).busy = true ∧
      (pending (.write 0x0C .w32 1) (detecting 2 0)).script = .write 0x0C .w32 1 :: [] ∧
      (pending (.write 0x1C .w32 1) (resolving 0)).busy = true ∧
      (pending (.write 0x1C .w32 1) (resolving 0)).script = .write 0x1C .w32 1 :: [] := by decide

/-- The two clauses meet at 0x101000. -/
theorem witness_ShortBufferRaises :
    (running .x103 .ckInit 0x100FFF).phase = .ckInit ∧
      (running .x103 .ckInit 0x100FFF).latched = some (checksumOf .x103) ∧
      (running .x103 .ckInit 0x100FFF).lenl.toNat < 0x101000 ∧ (running .x103 .ckInit 0x100FFF).tainted = false ∧
      (running .x103 .ckInit 0x101000).latched = some (checksumOf .x103) ∧
      0x101000 ≤ (running .x103 .ckInit 0x101000).lenl.toNat ∧ 0xC ≤ (running .x103 .ckInit 0x101000).romStorage := by
  decide

/-- Every variant, at the shortest buffer that passes. -/
theorem witness_CkInitSeedsTheRun : ∀ v : Variant,
    (running v .ckInit 0x101000).phase = .ckInit ∧ (running v .ckInit 0x101000).latched = some (checksumOf v) ∧
      0x101000 ≤ (running v .ckInit 0x101000).lenl.toNat ∧ 0xC ≤ (running v .ckInit 0x101000).romStorage := by
  intro v; cases v <;> decide

/-- The last iteration, whose word ends exactly at the buffer's end. -/
theorem witness_CkLoopDefaultIteration :
    Variant.x106 ≠ .x105 ∧ (atLast .x106).phase = .ckLoop ∧ (atLast .x106).latched = some (checksumOf .x106) ∧
      ((atLast .x106).t1 - (atLast .x106).epr + 0x1000).toNat + 4 = 0x101000 ∧
      ((atLast .x106).t1 - (atLast .x106).epr + 0x1000).toNat + 4 = (atLast .x106).lenl.toNat ∧
      ((atLast .x106).t1 - (atLast .x106).epr + 0x1000).toNat + 4 ≤ (atLast .x106).romStorage := by decide

theorem witness_CkLoopX105Iteration :
    (atLast .x105).phase = .ckLoop ∧ (atLast .x105).latched = some .checksumX105 ∧
      ((atLast .x105).t1 - (atLast .x105).epr + 0x1000).toNat + 4 = 0x101000 ∧
      ((atLast .x105).t1 - (atLast .x105).epr + 0x1000).toNat + 4 = (atLast .x105).lenl.toNat ∧
      ((atLast .x105).t1 - (atLast .x105).epr + 0x1000).toNat + 4 ≤ (atLast .x105).romStorage ∧
      ((atLast .x105).s6 - 0xA0000004 + 0x554).toNat = 0x84C ∧
      ((atLast .x105).s6 - 0xA0000004 + 0x554).toNat + 4 ≤ 0x101000 ∧
      ((atLast .x105).s6 - 0xA0000004 + 0x554).toNat + 4 ≤ (atLast .x105).lenl.toNat ∧
      ((atLast .x105).s6 - 0xA0000004 + 0x554).toNat + 4 ≤ (atLast .x105).romStorage := by decide

/-- The final step, for each of the six variants. -/
theorem witness_CkFinal : ∀ v : Variant,
    (atEnd v).phase = .ckFinal ∧ (atEnd v).latched = some (checksumOf v) ∧ (atEnd v).tainted = false := by
  intro v; cases v <;> decide

theorem witness_ChangedBufferEndsInDraws : ∀ v : Variant,
    (changed (atEnd v)).phase = .ckFinal ∧ (changed (atEnd v)).latched = some (checksumOf v) ∧
      (changed (atEnd v)).tainted = true := by intro v; cases v <;> decide

theorem witness_ChangedBufferFreesResultsOnly :
    (nextOf? (exec .resolveAlias { resolving 0x17D6 with tainted := false })).isSome = true := by decide

theorem witness_DetectIpl3Completes :
    (detecting 2 0xFC0).phase = .detHash ∧ (detecting 2 0xFC0).latched = some .detectIpl3 ∧
      (detecting 2 0xFC0).tainted = false ∧ 0xFC0 ≤ (detecting 2 0xFC0).lenl.toNat ∧
      0xFC0 ≤ (detecting 2 0xFC0).romStorage := by decide

theorem witness_DetectRomCompletes :
    (detecting 3 0x1000).phase = .detHash ∧ (detecting 3 0x1000).latched = some .detectRom ∧
      (detecting 3 0x1000).tainted = false ∧ 0x1000 ≤ (detecting 3 0x1000).lenl.toNat ∧
      0x1000 ≤ (detecting 3 0x1000).romStorage := by decide

theorem witness_ShortBlobRaises :
    (detecting 2 0xFBF).phase = .detHash ∧ (detecting 2 0xFBF).tainted = false ∧
      (detecting 2 0xFBF).latched = some .detectIpl3 ∧ (detecting 2 0xFBF).lenl.toNat < 0xFC0 ∧
      (detecting 3 0xFFF).phase = .detHash ∧ (detecting 3 0xFFF).tainted = false ∧
      (detecting 3 0xFFF).latched = some .detectRom ∧ (detecting 3 0xFFF).lenl.toNat < 0x1000 := by decide

/-- Six distinct hashes, the codes themselves; none of them is 6. -/
theorem witness_DistinctHashesRoundTrip :
    (∀ u v : Variant, (variantCode u).setWidth 128 = ((variantCode v).setWidth 128 : Digest) → u = v) ∧
      ∀ v : Variant, (variantCode v).setWidth 128 ≠ (6 : Digest) := by
  refine ⟨fun u v => ?_, fun v => ?_⟩
  · cases u <;> cases v <;> decide
  · cases v <;> decide

theorem witness_DetectRomIsDetectIpl3OfTheBlob :
    (detecting 3 0x1000).phase = .detHash ∧ (detecting 3 0x1000).latched = some .detectRom ∧
      (detecting 3 0x1000).tainted = false ∧ 0x1000 ≤ (detecting 3 0x1000).lenl.toNat ∧
      0x1000 ≤ (detecting 3 0x1000).romStorage ∧ (detecting 2 0xFC0).phase = .detHash ∧
      (detecting 2 0xFC0).latched = some .detectIpl3 ∧ (detecting 2 0xFC0).tainted = false ∧
      (detecting 2 0xFC0).lenl = 0xFC0 ∧ 0xFC0 ≤ (detecting 2 0xFC0).romStorage ∧
      ∀ k < 0xFC0, (detecting 2 0xFC0).rom.read k = (detecting 3 0x1000).rom.read (0x40 + k) :=
  ⟨by decide, by decide, by decide, by decide, by decide, by decide, by decide, by decide, by decide, by decide,
    fun _ _ => rfl⟩

/-- A number of the table, and 5101, which is none of them. -/
theorem witness_ResolveAliasCompletes :
    (resolving 7106).phase = .alMap ∧ (resolving 7106).latched = some .resolveAlias ∧
      (resolving 7106).tainted = false ∧ (7106, 5) ∈ cicTable ∧ (resolving 7106).aliasReg = BitVec.ofNat 32 7106 ∧
      (resolving 5101).phase = .alMap ∧ (resolving 5101).latched = some .resolveAlias ∧
      ∀ p ∈ cicTable, (resolving 5101).aliasReg ≠ BitVec.ofNat 32 p.1 := by decide

theorem witness_HostReadsReturnRegisters :
    (pending (.read 0x00 .w32) (atEnd .x106)).script = .read 0x00 .w32 :: [] ∧ (0x00 : Offset).toNat % 4 = 0 ∧
      (pending (.read 0x1C .w32) (atEnd .x106)).script = .read 0x1C .w32 :: [] ∧ (0x1C : Offset).toNat % 4 = 0 ∧
      (pending (.read 0x20 .w32) (atEnd .x106)).script = .read 0x20 .w32 :: [] ∧ (0x20 : Offset).toNat = 0x20 ∧
      (pending (.read 0x3C .w32) (atEnd .x106)).script = .read 0x3C .w32 :: [] ∧ (0x3C : Offset).toNat % 4 = 0 := by
  decide

theorem witness_HostWritesReachWritableRegisters :
    (pending (.write 0x0C .w32 5) State.reset).script = .write 0x0C .w32 5 :: [] ∧
      (pending (.write 0x0C .w32 5) State.reset).busy = false ∧
      (pending (.write 0x1C .w32 5) State.reset).script = .write 0x1C .w32 5 :: [] ∧
      (pending (.write 0x1C .w32 5) State.reset).busy = false ∧
      (pending (.write 0x3C .w32 5) (atEnd .x106)).script = .write 0x3C .w32 5 :: [] ∧
      (0x3C : Offset).toNat % 4 = 0 ∧ (0x3C : Offset) ≠ 0x00 ∧ (0x3C : Offset) ≠ 0x0C ∧ (0x3C : Offset) ≠ 0x1C := by
  decide

theorem witness_UndefinedAccessIsRefused :
    (pending (.write 0x00 .w8 5) State.reset).script = .write 0x00 .w8 5 :: [] ∧ Width.w8 ≠ .w32 ∧
      (pending (.read 0x04 .w64) State.reset).script = .read 0x04 .w64 :: [] ∧ Width.w64 ≠ .w32 ∧
      (pending (.read 0x3F .w32) State.reset).script = .read 0x3F .w32 :: [] ∧ (0x3F : Offset).toNat % 4 ≠ 0 := by
  decide

/-- Addresses that are no register's: the first byte after the window, with no byte in it at any width; two bytes below
it, whose third byte is the window's first; four bytes below, whose fifth is. -/
theorem witness_BusAddressSelectsRegister :
    (∀ k < accessBytes .w64, ∀ o : Offset,
      Config.ckbase + 0x40 + BitVec.ofNat 32 k ≠ Config.ckbase + o.setWidth 32) ∧
    (∀ o : Offset, Config.ckbase + 0xFFFFFFFE ≠ Config.ckbase + o.setWidth 32) ∧ 2 < accessBytes .w32 ∧
      Config.ckbase + 0xFFFFFFFE + BitVec.ofNat 32 2 = Config.ckbase + (0 : Offset).setWidth 32 ∧
    (∀ o : Offset, Config.ckbase + 0xFFFFFFFC ≠ Config.ckbase + o.setWidth 32) ∧ 4 < accessBytes .w64 ∧
      Config.ckbase + 0xFFFFFFFC + BitVec.ofNat 32 4 = Config.ckbase + (0 : Offset).setWidth 32 := by
  have away : ∀ k < 8, ∀ o : Offset, (0x40 + BitVec.ofNat 32 k : Word) ≠ o.setWidth 32 := by decide
  have two : ∀ o : Offset, (0xFFFFFFFE : Word) ≠ o.setWidth 32 := by decide
  have four : ∀ o : Offset, (0xFFFFFFFC : Word) ≠ o.setWidth 32 := by decide
  refine ⟨fun k hk o h => ?_, fun o h => ?_, by decide, ?_, fun o h => ?_, by decide, ?_⟩
  · rw [BitVec.add_assoc] at h
    exact away k hk o ((BitVec.add_right_inj _).1 h)
  · exact two o ((BitVec.add_right_inj _).1 h)
  · rw [BitVec.add_assoc]; rfl
  · exact four o ((BitVec.add_right_inj _).1 h)
  · rw [BitVec.add_assoc]; rfl

/-- A state of the middle of a run that meets the invariant (the hypothesis of the statements about every step). -/
theorem witness_Inv : Inv (atLast .x105) where
  romWf := Memory.wf_writeWord Memory.wf_nil _ _
  romInside := by decide
  errIff := by decide
  detectOk := ⟨none, rfl⟩
  noEarly := by decide
  noPartial := by decide
  ckKeepsDetect := by decide
  detKeepsResults := by decide
  ckLatch _ := ⟨rfl, .x105, rfl⟩
  detLatch := by decide
  alLatch := by decide
  inLoop _ := ⟨by decide, fun v hv => by
    have hx : v = .x105 := variantCode_injective hv.symm
    subst hx
    exact ⟨by decide, by decide, by decide, by decide, by decide⟩⟩
  atFinal h := by cases h

/-- A state in `ERROR` that meets the invariant. -/
theorem witness_Inv_error : Inv { resolving 0 with phase := .error, errcode := .unrecognizedVariant } where
  romWf := Memory.wf_nil
  romInside := by decide
  errIff := by decide
  detectOk := ⟨none, rfl⟩
  noEarly := by decide
  noPartial := by decide
  ckKeepsDetect := by decide
  detKeepsResults := by decide
  ckLatch h := by rcases h with h | h | h <;> cases h
  detLatch := by decide
  alLatch := by decide
  inLoop h := by cases h
  atFinal h := by cases h

/-- `ErrcodeNonzeroExactlyInError`: its invariant is met where `CODE` is nonzero and where it is 0. -/
theorem witness_ErrcodeNonzeroExactlyInError :
    Inv { resolving 0 with phase := .error, errcode := .unrecognizedVariant } ∧ Inv (atLast .x105) :=
  ⟨witness_Inv_error, witness_Inv⟩

/-- The last word of a buffer. -/
theorem witness_WordsAreBigEndian : nextOf? (memRead32 0x100FFC (withWord 0x100FFC 0x38C7C0BF (atLast .x105))) =
    some 0x38C7C0BF := by decide

/-- A `CK_LOOP` state that no run reaches, on a buffer longer than the window: the cursor one word beyond the window, or
for `X105` the second pointer there. -/
def beyondWindow (main : Bool) : State :=
  { atLast .x105 with
    lenl := 0x200000
    t1 := if main then 0x80000400 + 0x100000 else 0x80000400
    s6 := if main then 0xA0000200 else 0xA0000004 - 0x554 + 0x101000 }

/-- The `CK_LOOP` clauses of the same statement. -/
theorem witness_ReadOutsideBufferFaults_loop :
    (beyondWindow true).phase = .ckLoop ∧ (beyondWindow true).latched = some (checksumOf .x105) ∧
      ((beyondWindow true).t1 - (beyondWindow true).epr + 0x1000).toNat = 0x101000 ∧
      (beyondWindow false).phase = .ckLoop ∧ (beyondWindow false).latched = some (checksumOf .x105) ∧
      ((beyondWindow false).s6 - 0xA0000004 + 0x554).toNat = 0x101000 ∧
      (nextOf? (memReadStream ((beyondWindow false).t1 - (beyondWindow false).epr + 0x1000) (beyondWindow false))).isSome =
        true := by decide

/-- One offset for each clause, at the ends of the ranges. -/
theorem witness_ReadOutsideBufferFaults :
    (detecting 2 0xFC0).lenl.toNat < (0xFBD : Word).toNat + 4 ∧ (0xFBC : Word).toNat + 4 ≤ (detecting 2 0xFC0).lenl.toNat ∧
      (0xFBC : Word).toNat + 4 ≤ (detecting 2 0xFC0).romStorage ∧
      State.romStorage { detecting 2 0xFC0 with romStorage := 0xFBF } < (0xFBC : Word).toNat + 4 := by decide

theorem witness_HostRomWordWritesFourBytes :
    (pending (.romWord 0xFFFFFFFC 1) (atLast .x105)).script = .romWord 0xFFFFFFFC 1 :: [] ∧
      (pending (.romWord 0xFFFFFFFC 1) (atLast .x105)).rom.wf ∧
      (0xFFFFFFFC : Word).toNat + 4 ≤ (pending (.romWord 0xFFFFFFFC 1) (atLast .x105)).romStorage :=
  ⟨by decide, Memory.wf_writeWord Memory.wf_nil _ _, by decide⟩

/-- A byte at the storage's end, beyond every `LENL`; an image with a cell at its end and one outside it. -/
theorem witness_HostLoadsTheBuffer :
    (pending (.romByte 0xFFFFFFFF 1) State.reset).script = .romByte 0xFFFFFFFF 1 :: [] ∧
      (0xFFFFFFFF : Word).toNat + 1 ≤ (pending (.romByte 0xFFFFFFFF 1) State.reset).romStorage ∧
      (pending (.romFill 4 [(3, 1), (4, 2)]) State.reset).script = .romFill 4 [(3, 1), (4, 2)] :: [] ∧
      List.Pairwise (fun c d => c.1 < d.1) ([(3, 1), (4, 2)] : List Host.Cell) ∧
      (pending (.romByte 0xFFFFFFFF 1) State.reset).rom.wf :=
  ⟨by decide, by decide, by decide, by decide, Memory.wf_nil⟩

theorem witness_PatchIsIdempotentAndHarmless : (atLast .x105).rom.wf := Memory.wf_writeWord Memory.wf_nil _ _

theorem witness_ResetInputClearsHostRegisters :
    (pending .reset (atEnd .x106)).script = .reset :: [] := by decide

theorem witness_MainStreamOffset : Inv (atLast .x105) ∧ (atLast .x105).phase = .ckLoop := ⟨witness_Inv, by decide⟩

theorem witness_StepKeepsTheInvariant : Inv (atLast .x105) ∧ (nextOf? (step (atLast .x105))).isSome = true :=
  ⟨witness_Inv, by decide⟩

theorem witness_NoFaultUnderTheInvariant : Inv (atLast .x105) := witness_Inv

theorem witness_EveryRunEnds :
    Inv (atLast .x105) ∧ (atLast .x105).busy = true ∧ (atLast .x105).script = [] ∧
      (atLast .x105).lenl.toNat ≤ (atLast .x105).romStorage := ⟨witness_Inv, by decide, by decide, by decide⟩

/-- The invariant does not read the host's turns. -/
theorem witness_WaitEnds :
    Inv (pending .wait (atLast .x105)) ∧ (pending .wait (atLast .x105)).busy = true ∧
      (pending .wait (atLast .x105)).script = .wait :: [] ∧
      (pending .wait (atLast .x105)).lenl.toNat ≤ (pending .wait (atLast .x105)).romStorage := by
  refine ⟨?_, by decide, by decide, by decide⟩
  exact
    { romWf := witness_Inv.romWf, romInside := witness_Inv.romInside, errIff := witness_Inv.errIff
      detectOk := witness_Inv.detectOk, noEarly := witness_Inv.noEarly, noPartial := witness_Inv.noPartial
      ckKeepsDetect := witness_Inv.ckKeepsDetect, detKeepsResults := witness_Inv.detKeepsResults
      ckLatch := witness_Inv.ckLatch, detLatch := witness_Inv.detLatch, alLatch := witness_Inv.alLatch
      inLoop := fun h =>
        ⟨(witness_Inv.inLoop h).1, fun v hv =>
          { long := ((witness_Inv.inLoop h).2 v hv).long, entry := ((witness_Inv.inLoop h).2 v hv).entry
            wordwise := ((witness_Inv.inLoop h).2 v hv).wordwise, cursor := ((witness_Inv.inLoop h).2 v hv).cursor
            pointer := ((witness_Inv.inLoop h).2 v hv).pointer }⟩
      atFinal := fun h => by cases h }

/-- An iteration changes working registers. -/
theorem witness_WorkRegsWrittenByTheEngineOnly :
    regsAfter (step (atLast .x106)) ≠ none ∧ regsAfter (step (atLast .x106)) ≠ some (atLast .x106).workRegs := by decide

theorem witness_CommandsLeaveTheHostsStateAlone :
    (nextOf? (exec .checksumX106 (atLast .x106))).isSome = true := by decide

/-- A step of a run, and an acceptance. -/
theorem witness_DetectorFrame :
    (nextOf? (exec .resolveAlias (resolving 6101))).isSome = true ∧ (resolving 6101).busy = true ∧
      (resolving 6101).tainted = false ∧ (nextOf? (exec .detectRom State.reset)).isSome = true := by decide

theorem witness_RunsReadTheLatchedLength : (atLast .x106).busy = true := by decide

theorem witness_EarlyReadsAreZero : Inv (atLast .x105) ∧ (atLast .x105).busy = true := ⟨witness_Inv, by decide⟩

/-- The last step of a run changes the results. -/
theorem witness_ResultsChangeOnlyAtRunBoundaries :
    (nextOf? (step (atEnd .x106))).map (fun t => t.result0) = some 0x019BBE26 ∧ (atEnd .x106).result0 = 0 := by decide

/-- `ERROR` left by a command, and by reset. -/
theorem witness_ErrorIsLeftByCommandOrReset :
    (nextOf? (step (pending (.write 0x00 .w32 0x04) { State.reset with phase := .error }))).map State.phase = some .alMap ∧
      (nextOf? (step (pending .reset { State.reset with phase := .error }))).map State.phase = some .idle := by decide

/-- One state for each arm of the reference function: `ROM_LEN` 0, and 0x101000. -/
theorem witness_RunMatchesReferenceFunction :
    State.reset.busy = false ∧ State.reset.script = [] ∧ 0x101000 ≤ State.reset.romStorage ∧
      refChecksum State.reset.rom State.reset.romLen .x105 = none ∧
      State.busy { State.reset with romLen := 0x101000 } = false ∧
      State.script { State.reset with romLen := 0x101000 } = [] ∧
      0x101000 ≤ State.romStorage { State.reset with romLen := 0x101000 } ∧
      ¬ (State.romLen { State.reset with romLen := 0x101000 }).toNat < 0x101000 := by decide

/-- One state for each clause. -/
theorem witness_StepCountsAreExact :
    (running .x103 .ckInit 0x101000).phase = .ckInit ∧
      (running .x103 .ckInit 0x101000).latched = some (checksumOf .x103) ∧
      (running .x103 .ckInit 0x101000).script = [] ∧ 0x101000 ≤ (running .x103 .ckInit 0x101000).romStorage ∧
      0x101000 ≤ (running .x103 .ckInit 0x101000).lenl.toNat ∧
      (running .x103 .ckInit 0x100FFF).latched = some (checksumOf .x103) ∧
      (running .x103 .ckInit 0x100FFF).lenl.toNat < 0x101000 ∧
      (detecting 3 0x1000).phase = .detHash ∧ (detecting 3 0x1000).latched = some .detectRom ∧
      (detecting 3 0x1000).script = [] ∧ 0x1000 ≤ (detecting 3 0x1000).romStorage ∧
      (resolving 1).phase = .alMap ∧ (resolving 1).latched = some .resolveAlias ∧ (resolving 1).script = [] ∧
      State.reset.busy = false ∧ ∀ i, decode 0x05 ≠ .legal i := by
  refine ⟨by decide, by decide, by decide, by decide, by decide, by decide, by decide, by decide, by decide, by decide,
    by decide, by decide, by decide, by decide, by decide, ?_⟩
  intro i; cases i <;> decide

theorem witness_ClosedFormsAfterTheLoop :
    (running .x105 .ckInit 0x101000).phase = .ckInit ∧
      (running .x105 .ckInit 0x101000).latched = some (checksumOf .x105) ∧
      (running .x105 .ckInit 0x101000).script = [] ∧ 0x101000 ≤ (running .x105 .ckInit 0x101000).lenl.toNat ∧
      0x101000 ≤ (running .x105 .ckInit 0x101000).romStorage := by decide

/-- Image `G1`: its one nonzero byte group lies outside the window. -/
theorem witness_GoldenVectorOf6102 :
    State.busy { State.reset with romLen := 0x101000, rom := [(8, 0x80), (10, 4)] } = false ∧
      State.script { State.reset with romLen := 0x101000, rom := [(8, 0x80), (10, 4)] } = [] ∧
      0x101000 ≤ (0x101000 : Word).toNat ∧
      0x101000 ≤ State.romStorage { State.reset with romLen := 0x101000, rom := [(8, 0x80), (10, 4)] } ∧
      ∀ a, 0x1000 ≤ a → a < 0x101000 → Memory.read [(8, 0x80), (10, 4)] a = 0 := by
  refine ⟨by decide, by decide, by decide, by decide, fun a h1 _ => ?_⟩
  rw [Memory.read_cons, if_neg (by omega), Memory.read_cons, if_neg (by omega)]
  rfl

theorem witness_GoldenVectorsOfCandidates :
    (∀ a, 0x1000 ≤ a → a < 0x101000 → Memory.read [(8, 0x80)] a = 0) ∧
      ∀ a, 0x750 ≤ a → a < 0x850 → Memory.read [(8, 0x80)] a = 0 := by
  refine ⟨fun a h1 _ => ?_, fun a h1 _ => ?_⟩ <;> rw [Memory.read_cons, if_neg (by omega)] <;> rfl

/-- Two different variants of the three. -/
theorem witness_DefaultVariantsAgree :
    (Variant.v6101 = .v6101 ∨ Variant.v6101 = .v6102_7101 ∨ Variant.v6101 = .v7102) ∧
      (Variant.v7102 = .v6101 ∨ Variant.v7102 = .v6102_7101 ∨ Variant.v7102 = .v7102) := by decide

/-- Two buffers that differ in the entrypoint word and in the length. -/
theorem witness_ResultsDependOnTheWindowOnly :
    (running .x105 .ckInit 0x101000).phase = .ckInit ∧
      (running .x105 .ckInit 0x101000).latched = some (checksumOf .x105) ∧
      (running .x105 .ckInit 0x101000).script = [] ∧ (running .x105 .ckInit 0x101000).tainted = false ∧
      0x101000 ≤ (running .x105 .ckInit 0x101000).lenl.toNat ∧
      0x101000 ≤ (running .x105 .ckInit 0x101000).romStorage ∧
      State.phase { running .x105 .ckInit 0x200000 with rom := [(8, 0x80)] } = .ckInit ∧
      State.latched { running .x105 .ckInit 0x200000 with rom := [(8, 0x80)] } = some (checksumOf .x105) ∧
      State.script { running .x105 .ckInit 0x200000 with rom := [(8, 0x80)] } = [] ∧
      State.tainted { running .x105 .ckInit 0x200000 with rom := [(8, 0x80)] } = false ∧
      0x101000 ≤ (0x200000 : Word).toNat ∧
      (∀ a, 0x1000 ≤ a → a < 0x101000 → (running .x105 .ckInit 0x101000).rom.read a = Memory.read [(8, 0x80)] a) ∧
      ∀ a, 0x750 ≤ a → a < 0x850 → (running .x105 .ckInit 0x101000).rom.read a = Memory.read [(8, 0x80)] a := by
  refine ⟨by decide, by decide, by decide, by decide, by decide, by decide, by decide, by decide, by decide, by decide,
    by decide, fun a h1 _ => ?_, fun a h1 _ => ?_⟩ <;> rw [Memory.read_cons, if_neg (by omega)] <;> rfl

end Sys2Proof.Tests
end

section
/-! PROOFS. The statements about the state: the invariant of every step (O43). -/

namespace Sys2Proof.Machine

/-! ### Two ways to meet the invariant

Which clauses of `Inv` say anything depends on whether a run is in progress. -/

/-- With no run in progress the clauses about the latched command and the loop are void. -/
theorem Inv.of_quiescent {t : State} (hb : t.busy = false) (hwf : t.rom.wf) (hin : t.rom.inside t.romStorage)
    (herr : t.errcode ≠ .noError ↔ t.phase = .error) (hdet : detectLegal t.detect)
    (hidle : t.phase = .idle → t.result0 = 0 ∧ t.result1 = 0 ∧ t.detect = 0)
    (herror : t.phase = .error → t.tainted = false → t.result0 = 0 ∧ t.result1 = 0 ∧ t.detect = 0)
    (hck : t.phase = .done → t.tainted = false → t.opl = 1 → t.detect = 0)
    (hdone : t.phase = .done → t.tainted = false → t.opl ≠ 1 → t.result0 = 0 ∧ t.result1 = 0) : Inv t := by
  have hne : ∀ p : Phase, p.isBusy = true → t.phase ≠ p := by
    rintro p hp rfl
    exact absurd hb (by simp [State.busy, hp])
  exact
    { romWf := hwf, romInside := hin, errIff := herr, detectOk := hdet
      noEarly := fun h => h.elim hidle fun h => absurd h (by simp [hb])
      noPartial := herror, ckKeepsDetect := hck, detKeepsResults := hdone
      ckLatch := by rintro (h | h | h) <;> exact absurd h (hne _ rfl)
      detLatch := fun h => absurd h (hne _ rfl), alLatch := fun h => absurd h (hne _ rfl)
      inLoop := fun h => absurd h (hne _ rfl), atFinal := fun h => absurd h (hne _ rfl) }

/-- With a run in progress the results are 0 and the clauses about a finished run are void. -/
theorem Inv.of_busy {t : State} (hb : t.busy = true) (hwf : t.rom.wf) (hin : t.rom.inside t.romStorage)
    (herr : t.errcode = .noError) (hzero : t.result0 = 0 ∧ t.result1 = 0 ∧ t.detect = 0)
    (hck : t.phase = .ckInit ∨ t.phase = .ckLoop ∨ t.phase = .ckFinal → t.opl = 1 ∧ ∃ v, t.vl = variantCode v)
    (hdet : t.phase = .detHash → t.opl = 2 ∨ t.opl = 3) (hal : t.phase = .alMap → t.opl = 4)
    (hloop : t.phase = .ckLoop → t.t0.toNat < 0x100000 ∧ ∀ v, t.vl = variantCode v → LoopInv v t)
    (hfin : t.phase = .ckFinal → t.t0 = ckBytes ∧ ∀ v, t.vl = variantCode v → LoopInv v t) : Inv t := by
  have hne : ∀ p : Phase, p.isBusy = false → t.phase ≠ p := by
    rintro p hp rfl
    exact absurd hb (by simp [State.busy, hp])
  exact
    { romWf := hwf, romInside := hin, errIff := ⟨fun he => absurd herr he, fun h => absurd h (hne _ rfl)⟩
      detectOk := ⟨none, hzero.2.2⟩, noEarly := fun _ => hzero
      noPartial := fun h => absurd h (hne _ rfl), ckKeepsDetect := fun h => absurd h (hne _ rfl)
      detKeepsResults := fun h => absurd h (hne _ rfl)
      ckLatch := hck, detLatch := hdet, alLatch := hal, inLoop := hloop, atFinal := hfin }

/-- No error stands during a run. -/
theorem Inv.errcode_of_busy {s : State} (h : Inv s) (hb : s.busy = true) : s.errcode = .noError := by
  by_contra he
  simp [State.busy, h.errIff.1 he, Phase.isBusy] at hb

/-! ### The host's moves -/

/-- The loop's clauses read six registers only. -/
theorem LoopInv.congr {v : Variant} {s t : State} (h : LoopInv v s) (hlenl : t.lenl = s.lenl) (hep : t.ep = s.ep)
    (hepr : t.epr = s.epr) (ht0 : t.t0 = s.t0) (ht1 : t.t1 = s.t1) (hs6 : t.s6 = s.s6) : LoopInv v t where
  long := hlenl ▸ h.long
  entry := by rw [hepr, hep]; exact h.entry
  wordwise := ht0 ▸ h.wordwise
  cursor := by rw [ht1, hepr, ht0]; exact h.cursor
  pointer := by rw [hs6, ht0]; exact h.pointer

/-- The invariant does not read the host's turns, its last read, `ROM_LEN` or `ALIAS`. -/
theorem inv_hostFields {s : State} (h : Inv s) (rest : List HostAction) (d n a : Word) :
    Inv { s with script := rest, rdata := d, romLen := n, aliasReg := a } :=
  { h with
    inLoop := fun hp => ⟨(h.inLoop hp).1, fun v hv => ((h.inLoop hp).2 v hv).congr rfl rfl rfl rfl rfl rfl⟩
    atFinal := fun hp => ⟨(h.atFinal hp).1, fun v hv => ((h.atFinal hp).2 v hv).congr rfl rfl rfl rfl rfl rfl⟩ }

/-- New contents of the ROM buffer may mark the run, which only weakens the clauses about its results. -/
theorem inv_setRom {s : State} (h : Inv s) {m : Memory} {n : Nat} (hm : m.wf) (hn : m.inside n) :
    Inv (setRom m n s) := by
  have unmarked : (setRom m n s).tainted = false → s.tainted = false := by
    rw [setRom_tainted, Bool.or_eq_false_iff]
    exact And.left
  exact
    { h with
      romWf := hm, romInside := hn
      noPartial := fun hp ht => h.noPartial hp (unmarked ht)
      ckKeepsDetect := fun hp ht => h.ckKeepsDetect hp (unmarked ht)
      detKeepsResults := fun hp ht => h.detKeepsResults hp (unmarked ht)
      inLoop := fun hp => ⟨(h.inLoop hp).1, fun v hv => ((h.inLoop hp).2 v hv).congr rfl rfl rfl rfl rfl rfl⟩
      atFinal := fun hp => ⟨(h.atFinal hp).1, fun v hv => ((h.atFinal hp).2 v hv).congr rfl rfl rfl rfl rfl rfl⟩ }

/-- The reset input leads to `IDLE` with every result 0 (R280). -/
theorem inv_resetBlock {s : State} (h : Inv s) : Inv (resetBlock s) :=
  .of_quiescent rfl h.romWf h.romInside (by simp) ⟨none, rfl⟩ (fun _ => ⟨rfl, rfl, rfl⟩)
    (fun hp => by cases hp) (fun hp => by cases hp) (fun hp => by cases hp)

/-! ### Acceptance and the end of a run -/

/-- An accepted command starts its run with the results cleared and its own phase and latch (R240). -/
theorem inv_accept {s : State} (h : Inv s) (i : Instr) : Inv (latchOf i (beginCommand s)) := by
  rcases instr_cases i with ⟨v, rfl⟩ | rfl | rfl | rfl
  · rw [latchOf_checksumOf]
    exact .of_busy rfl h.romWf h.romInside rfl ⟨rfl, rfl, rfl⟩ (fun _ => ⟨rfl, v, rfl⟩)
      (fun hp => by cases hp) (fun hp => by cases hp) (fun hp => by cases hp) (fun hp => by cases hp)
  · exact .of_busy rfl h.romWf h.romInside rfl ⟨rfl, rfl, rfl⟩ (by simp [latchOf])
      (fun _ => .inl rfl) (fun hp => by cases hp) (fun hp => by cases hp) (fun hp => by cases hp)
  · exact .of_busy rfl h.romWf h.romInside rfl ⟨rfl, rfl, rfl⟩ (by simp [latchOf])
      (fun _ => .inr rfl) (fun hp => by cases hp) (fun hp => by cases hp) (fun hp => by cases hp)
  · exact .of_busy rfl h.romWf h.romInside rfl ⟨rfl, rfl, rfl⟩ (by simp [latchOf])
      (fun hp => by cases hp) (fun _ => rfl) (fun hp => by cases hp) (fun hp => by cases hp)

/-- The draws at the end of a marked run are results that `DETECT` can hold (R290). -/
theorem inv_endRun {s : State} (h : Inv s) (hp : s.phase = .done ∨ s.phase = .error) : Inv (endRun s) := by
  cases hm : s.tainted with
  | false => rwa [endRun_untainted hm]
  | true =>
    have hmarked : (endRun s).tainted ≠ false := by simp [hm]
    have hidle : s.phase ≠ .idle := by rcases hp with hp | hp <;> simp [hp]
    exact .of_quiescent (Phase.not_isBusy_iff.2 (.inr hp)) h.romWf h.romInside h.errIff
      ⟨_, by rw [endRun_detect, hm]; rfl⟩ (fun hi => absurd hi hidle) (fun _ ht => absurd ht hmarked)
      (fun _ ht => absurd ht hmarked) (fun _ ht => absurd ht hmarked)

/-- An error raised with the results at 0 leaves them so (R241). -/
theorem inv_raiseError {s : State} {e : ErrCode} (he : e ≠ .noError) (hwf : s.rom.wf)
    (hin : s.rom.inside s.romStorage) (hzero : s.result0 = 0 ∧ s.result1 = 0 ∧ s.detect = 0) :
    Inv (raiseError e s) :=
  inv_endRun
    (.of_quiescent rfl hwf hin (by simp [he]) ⟨none, hzero.2.2⟩ (fun hp => by cases hp) (fun _ _ => hzero)
      (fun hp => by cases hp) (fun hp => by cases hp))
    (.inr rfl)

/-- An error that ends a run (R241). -/
theorem inv_raiseError_of_busy {s : State} (h : Inv s) (hb : s.busy = true) {e : ErrCode} (he : e ≠ .noError) :
    Inv (raiseError e s) :=
  inv_raiseError he h.romWf h.romInside (h.noEarly (.inr hb))

/-- The last step of a checksum leaves `DETECT` at 0 (R164). -/
theorem inv_writeResults {s : State} (h : Inv s) (hb : s.busy = true) (hl : s.opl = 1) (w0 w1 : Word) :
    Inv (writeResults w0 w1 s) :=
  inv_endRun
    (.of_quiescent rfl h.romWf h.romInside (by simp) h.detectOk (fun hp => by cases hp) (fun hp => by cases hp)
      (fun _ _ _ => (h.noEarly (.inr hb)).2.2) (fun _ _ hne => absurd hl hne))
    (.inl rfl)

/-- The last step of a detector command leaves the result words at 0 (R202, R222). -/
theorem inv_writeDetect {s : State} (h : Inv s) (hb : s.busy = true) (hl : s.opl ≠ 1) (m : Option Variant) :
    Inv (writeDetect m s) :=
  have ⟨h0, h1, _⟩ := h.noEarly (.inr hb)
  inv_endRun
    (.of_quiescent rfl h.romWf h.romInside (by simp) ⟨m, rfl⟩ (fun hp => by cases hp) (fun hp => by cases hp)
      (fun _ _ heq => absurd heq hl) (fun _ _ _ => ⟨h0, h1⟩))
    (.inl rfl)

/-! ### The loop of a checksum -/

/-- A step of a checksum's run that leads into the loop or to its end, with the loop's registers consistent. -/
theorem inv_enterLoop {v : Variant} {s t : State} (h : Inv s) (hb : s.busy = true)
    (hl : s.latched = some (checksumOf v)) (hf : RunFrame s t) (hloop : LoopInv v t)
    (hp : (t.phase = .ckLoop ∧ t.t0.toNat < 0x100000) ∨ (t.phase = .ckFinal ∧ t.t0 = ckBytes)) : Inv t := by
  obtain ⟨hopl, hvl⟩ := latchedInstr_eq_checksumOf.1 hl
  have hloops : ∀ u, t.vl = variantCode u → LoopInv u t := fun u hu => by
    rwa [variantCode_injective (hu.symm.trans (hf.vl.trans hvl))]
  have hbusy : t.busy = true := by rcases hp with ⟨hp, -⟩ | ⟨hp, -⟩ <;> simp [State.busy, hp, Phase.isBusy]
  refine .of_busy hbusy (hf.rom ▸ h.romWf) (by rw [hf.rom, hf.romStorage]; exact h.romInside)
    (hf.errcode.trans (h.errcode_of_busy hb)) (by rw [hf.result0, hf.result1, hf.detect]; exact h.noEarly (.inr hb))
    (fun _ => ⟨hf.opl.trans hopl, v, hf.vl.trans hvl⟩) ?_ ?_ ?_ ?_
  · rcases hp with ⟨hp, -⟩ | ⟨hp, -⟩ <;> simp [hp]
  · rcases hp with ⟨hp, -⟩ | ⟨hp, -⟩ <;> simp [hp]
  · rcases hp with ⟨-, ht⟩ | ⟨hp, -⟩
    · exact fun _ => ⟨ht, hloops⟩
    · simp [hp]
  · rcases hp with ⟨hp, -⟩ | ⟨-, ht⟩
    · simp [hp]
    · exact fun _ => ⟨ht, hloops⟩

/-- `CK_INIT` starts the loop at its first word (R141 to R144). -/
theorem inv_seedRegisters {v : Variant} {s : State} (h : Inv s) (hb : s.busy = true)
    (hl : s.latched = some (checksumOf v)) (hlen : 0x101000 ≤ s.lenl.toNat) (e : Word) : Inv (seedRegisters v e s) :=
  inv_enterLoop h hb hl (runFrame_seedRegisters v e s)
    { long := hlen, entry := rfl, wordwise := rfl, cursor := (BitVec.add_zero _).symm
      pointer := fun hv => by rw [seedRegisters_s6, if_pos hv]; rfl }
    (.inl ⟨rfl, by simp⟩)

/-- What an iteration does to the registers the invariant reads (R150, R156, R157, R158). -/
structure Advances (v : Variant) (s t : State) : Prop where
  frame : RunFrame s t
  ep : t.ep = s.ep
  epr : t.epr = s.epr
  t0 : t.t0 = s.t0 + 4
  t1 : t.t1 = s.t1 + 4
  s6 : v = .x105 → t.s6 = x105Next s.s6
  phase : t.phase = if s.t0 + 4 = ckBytes then .ckFinal else .ckLoop

theorem advances_iterateDefault {v : Variant} (hv : v ≠ .x105) (w : Word) (s : State) :
    Advances v s (iterateDefault w s) :=
  ⟨runFrame_iterateDefault w s, rfl, rfl, rfl, rfl, fun h => absurd h hv, rfl⟩

theorem advances_iterateX105 (v : Variant) (w x : Word) (s : State) : Advances v s (iterateX105 w x s) :=
  ⟨runFrame_iterateX105 w x s, rfl, rfl, rfl, rfl, fun _ => rfl, rfl⟩

/-- The count after an iteration, below the loop's end (R157). -/
theorem t0_add_four {w : Word} (h : w.toNat < 0x100000) : (w + 4).toNat = w.toNat + 4 := by
  rw [BitVec.toNat_add]
  show (w.toNat + 4) % 2 ^ 32 = _
  omega

/-- The second pointer after an iteration stands where the count says (R156). -/
theorem x105Next_pointer {n : Nat} (h : n % 4 = 0) :
    x105Next (x105Ptr0 + BitVec.ofNat 32 (n % 0x100)) = x105Ptr0 + BitVec.ofNat 32 ((n + 4) % 0x100) := by
  have hk : n % 0x100 = 4 * (n / 4 % 64) := by omega
  have hk' : (n + 4) % 0x100 = 4 * ((n / 4 % 64 + 1) % 64) := by omega
  rw [hk, hk', x105Next_cycle _ (Nat.mod_lt _ (by decide))]

/-- The loop's registers stay consistent over an iteration. -/
theorem LoopInv.advance {v : Variant} {s t : State} (h : LoopInv v s) (ht : s.t0.toNat < 0x100000)
    (ha : Advances v s t) : LoopInv v t := by
  have ht0 : t.t0.toNat = s.t0.toNat + 4 := by rw [ha.t0, t0_add_four ht]
  have hword := h.wordwise
  exact
    { long := ha.frame.lenl ▸ h.long
      entry := by rw [ha.epr, ha.ep]; exact h.entry
      wordwise := by omega
      cursor := by rw [ha.t1, ha.epr, ha.t0, h.cursor, BitVec.add_assoc]
      pointer := fun hv => by rw [ha.s6 hv, h.pointer hv, ht0, x105Next_pointer hword] }

/-- An iteration leads to the next one, or after the last word to `CK_FINAL` (R157, R158). -/
theorem inv_advances {v : Variant} {s t : State} (h : Inv s) (hp : s.phase = .ckLoop)
    (hl : s.latched = some (checksumOf v)) (ha : Advances v s t) : Inv t := by
  obtain ⟨ht, hloops⟩ := h.inLoop hp
  have hloop := hloops v (latchedInstr_eq_checksumOf.1 hl).2
  refine inv_enterLoop h (by rw [State.busy, hp]; rfl) hl ha.frame (hloop.advance ht ha) ?_
  by_cases hend : s.t0 + 4 = ckBytes
  · exact .inr ⟨by rw [ha.phase, if_pos hend], ha.t0.trans hend⟩
  · refine .inl ⟨by rw [ha.phase, if_neg hend], ?_⟩
    have hne : s.t0.toNat + 4 ≠ 0x100000 := fun heq =>
      hend (BitVec.eq_of_toNat_eq (by rw [t0_add_four ht, heq]; rfl))
    have hword := hloop.wordwise
    rw [ha.t0, t0_add_four ht]
    omega

/-! ### Every step -/

/-- Every step of a run keeps the invariant (R34). -/
theorem inv_advanceOf {i : Instr} {s t : State} (h : Inv s) (hb : s.busy = true) (hl : s.latched = some i)
    (ht : advanceOf i s = .next t) : Inv t := by
  have hdetect : ∀ {minLen off : Word}, s.opl ≠ 1 → detectStep minLen off s = .next t → Inv t := by
    intro minLen off hopl hd
    obtain ⟨-, ⟨-, rfl⟩ | ⟨-, rfl⟩⟩ := detectStep_cases hd
    · exact inv_raiseError_of_busy h hb (by simp)
    · exact inv_writeDetect h hb hopl _
  rcases instr_cases i with ⟨v, rfl⟩ | rfl | rfl | rfl
  · rw [advanceOf_checksumOf] at ht
    rcases checksumStep_cases ht with ⟨-, -, rfl⟩ | ⟨-, hlen, rfl⟩ | ⟨hp, hv, rfl⟩ | ⟨hp, -, rfl⟩ | ⟨-, rfl⟩
    · exact inv_raiseError_of_busy h hb (by simp)
    · exact inv_seedRegisters h hb hl hlen _
    · exact inv_advances h hp hl (advances_iterateDefault hv _ s)
    · exact inv_advances h hp hl (advances_iterateX105 v _ _ s)
    · exact inv_writeResults h hb (latchedInstr_eq_checksumOf.1 hl).1 _ _
  · exact hdetect (by simp [latchedInstr_eq_detectIpl3.1 hl]) ht
  · exact hdetect (by simp [latchedInstr_eq_detectRom.1 hl]) ht
  · obtain ⟨-, ⟨-, rfl⟩ | ⟨v, -, rfl⟩⟩ := resolveStep_cases ht
    · exact inv_raiseError_of_busy h hb (by simp)
    · exact inv_writeDetect h hb (by simp [latchedInstr_eq_resolveAlias.1 hl]) _

/-- Every move keeps the invariant; the turn's own bookkeeping does not touch it. -/
theorem inv_move {s t : State} (h : Inv s) {rest : List HostAction} {d : Word}
    (hm : Move s { s with script := rest, rdata := d } t) : Inv t := by
  have hp := inv_hostFields h rest d s.romLen s.aliasReg
  cases hm with
  | stay => exact hp
  | romLen n _ => exact inv_hostFields h rest d n s.aliasReg
  | cicNumber a _ => exact inv_hostFields h rest d s.romLen a
  | accept i _ => exact inv_accept hp i
  | reject e he _ => exact inv_raiseError he h.romWf h.romInside ⟨rfl, rfl, rfl⟩
  | advance i t hb hl ht => exact inv_advanceOf hp hb hl ht
  | rom m n hmem =>
    obtain ⟨hwf, hin⟩ := hmem h.romWf h.romInside
    exact inv_setRom hp hwf hin
  | reset _ => exact inv_resetBlock hp

/-- Settles O43: one lemma for each move that a step can be. -/
theorem stepKeepsTheInvariant : Obligations.StepKeepsTheInvariant := by
  intro s t h hstep
  obtain ⟨rest, d, hm⟩ := step_cases hstep
  exact inv_move h hm

end Sys2Proof.Machine
end

section
/-! PROOFS. The host's window: register reads and writes, bus addresses, the status words, reset (O4, O27, O28, O30, O31,
O32, O39). -/

namespace Sys2Proof.Machine

/-! ### Aligned accesses -/

theorem accessCheck_of_aligned {off : Offset} (h : off.toNat % 4 = 0) : accessCheck off .w32 = .next () :=
  accessCheck_eq_next.2 ⟨rfl, h⟩

/-- An aligned read answers the register and has no other effect (R77). -/
theorem hostRead_of_aligned {off : Offset} (h : off.toNat % 4 = 0) (s : State) :
    hostRead off .w32 s = .next { s with rdata := readReg off s } := by
  rw [hostRead, accessCheck_of_aligned h, andThen_next]

/-- With no run in progress a write of `ROM_LEN` takes all 32 bits (R40). -/
theorem hostWrite_romLen (d : Word) (s : State) (hb : s.busy = false) :
    hostWrite 0x0C .w32 d s = .next { s with romLen := d } := by
  show Host.Outcome.next (writeRomLen d s) = _
  rw [writeRomLen, hb]; rfl

/-- With no run in progress a write of `ALIAS` takes all 32 bits (R43). -/
theorem hostWrite_aliasReg (d : Word) (s : State) (hb : s.busy = false) :
    hostWrite 0x1C .w32 d s = .next { s with aliasReg := d } := by
  show Host.Outcome.next (writeAlias d s) = _
  rw [writeAlias, hb]; rfl

/-- A write of a read-only or reserved offset is ignored (R36, R44). -/
theorem hostWrite_ignored {off : Offset} (ha : off.toNat % 4 = 0) (h0 : off ≠ 0x00) (h1 : off ≠ 0x0C)
    (h2 : off ≠ 0x1C) (d : Word) (s : State) : hostWrite off .w32 d s = .next s := by
  rw [hostWrite, accessCheck_of_aligned ha, andThen_next, if_neg h0, if_neg h1, if_neg h2]

/-- The offsets above `ALIAS` are reserved and read 0 (R44). -/
theorem readReg_reserved {off : Offset} (h : 0x20 ≤ off.toNat) (s : State) : readReg off s = 0 := by
  have hne : ∀ o : Offset, o.toNat < 0x20 → off ≠ o := by
    rintro o ho rfl
    omega
  rw [readReg, if_neg (hne _ (by decide)), if_neg (hne _ (by decide)), if_neg (hne _ (by decide)),
    if_neg (hne _ (by decide)), if_neg (hne _ (by decide)), if_neg (hne _ (by decide)), if_neg (hne _ (by decide))]

/-- Settles O27: the value is `readReg` at the offset, which each clause names. -/
theorem hostReadsReturnRegisters : Obligations.HostReadsReturnRegisters := by
  intro s off rest hs ha
  have at_offset : ∀ {n : Nat} {d : Word}, readReg (BitVec.ofNat 6 n) s = d →
      off.toNat = n → readReg off s = d := by
    rintro n d hd rfl
    simpa using hd
  exact ⟨readReg off s, (step_of_cons hs).trans (hostRead_of_aligned ha _), at_offset rfl, at_offset rfl,
    at_offset rfl, at_offset rfl, at_offset rfl, at_offset rfl, at_offset rfl, at_offset rfl,
    fun h => readReg_reserved h s⟩

/-- Settles O28: the turn is the window write on the state with the turn taken. -/
theorem hostWritesReachWritableRegisters : Obligations.HostWritesReachWritableRegisters := by
  intro s off d rest hs
  have hstep : step s = hostWrite off .w32 d { s with script := rest } := step_of_cons hs
  refine ⟨?_, ?_, fun ha h0 h1 h2 => hstep.trans (hostWrite_ignored ha h0 h1 h2 d _)⟩
  · rintro rfl hb
    exact hstep.trans (hostWrite_romLen d _ hb)
  · rintro rfl hb
    exact hstep.trans (hostWrite_aliasReg d _ hb)

/-! ### Bus addresses -/

/-- An address is the start of no register exactly when it is no register's address. -/
theorem windowOffset_eq_none {addr : Word} : windowOffset addr = none ↔ ∀ off : Offset, addr ≠ busAddress off := by
  rw [Option.eq_none_iff_forall_ne_some]
  exact forall_congr' fun off => not_congr windowOffset_eq_some

/-- An access that starts outside the window and has a byte in it has the window's first byte: the window is one block of
bytes, which such an access enters at its start (R36; log entry 26). -/
theorem reachesWindow_of_byte {addr : Word} {width : Width} (hout : ∀ off : Offset, addr ≠ busAddress off)
    {k : Nat} {off : Offset} (hk : k < accessBytes width) (h : addr + BitVec.ofNat 32 k = busAddress off) :
    reachesWindow addr width = true := by
  have hk8 : k < 8 := hk.trans_le (by cases width <;> decide)
  have hoff := off.isLt
  have hsum := congrArg BitVec.toNat h
  simp only [busAddress, BitVec.toNat_add, BitVec.toNat_ofNat, BitVec.toNat_setWidth] at hsum
  have hlt : off.toNat < k := by
    by_contra hge
    refine hout (BitVec.ofNat 6 (off.toNat - k)) (BitVec.eq_of_toNat_eq ?_)
    simp only [busAddress, BitVec.toNat_add, BitVec.toNat_ofNat, BitVec.toNat_setWidth]
    have haddr := addr.isLt
    omega
  refine reachesWindow_iff.2 ⟨k - off.toNat, by omega, by omega, BitVec.eq_of_toNat_eq ?_⟩
  rw [BitVec.toNat_add, BitVec.toNat_ofNat]
  have hbase := Config.ckbase.isLt
  omega

/-- With no byte in the window an access does not reach it. -/
theorem reachesWindow_of_no_byte {addr : Word} {width : Width}
    (h : ∀ k < accessBytes width, ∀ off : Offset, addr + BitVec.ofNat 32 k ≠ busAddress off) :
    reachesWindow addr width = false := by
  rw [← Bool.not_eq_true, reachesWindow_iff]
  rintro ⟨k, -, hk, hbase⟩
  exact h k hk 0 (hbase.symm.trans (BitVec.add_zero _).symm)

/-- An access at the bus address of an offset is the access at that offset (R36). -/
theorem busAccess_busAddress (off : Offset) (width : Width) (f : Offset → Result State) (s : State) :
    busAccess (busAddress off) width f s = f off := by
  rw [busAccess, windowOffset_busAddress]

/-- Settles O30: outside the window, a byte in it means that the access reaches `CKBASE`, and no byte that it does not. -/
theorem busAddressSelectsRegister : Obligations.BusAddressSelectsRegister := by
  intro s width d
  refine ⟨fun off => ⟨busAccess_busAddress off width _ s, busAccess_busAddress off width _ s⟩, fun addr hout => ?_⟩
  have hnone : windowOffset addr = none := windowOffset_eq_none.2 hout
  constructor
  · rintro ⟨k, off, hk, h⟩
    have hrefused := fun f => busAccess_of_reaches hnone (reachesWindow_of_byte hout hk h) f s
    constructor
    · intro hw
      simp only [if_pos hw] at hrefused
      exact ⟨hrefused _, hrefused _⟩
    · rintro rfl
      exact ⟨hrefused _, hrefused _⟩
  · intro hno
    have hsame := fun f => busAccess_of_outside hnone (reachesWindow_of_no_byte hno) f s
    exact ⟨hsame _, hsame _⟩

/-! ### The block's turn -/

/-- Settles O4: each of the three turns is the block's. -/
theorem latchedCommandRuns : Obligations.LatchedCommandRuns := by
  intro s i hb hl
  refine ⟨fun hs => ?_, fun rest hs => ?_, fun rest hs => ?_⟩
  · rw [step_of_nil hs, blockTurn_of_latched hb hl]
  · rw [step_of_cons hs]
    exact blockTurn_of_latched hb hl
  · rw [step_of_cons hs, hostTurn, waitTurn, if_pos hb, statusWord_of_busy hb]
    exact blockTurn_of_latched hb hl

/-! ### The status words -/

@[simp] theorem readReg_status (s : State) : readReg 0x04 s = statusWord s.phase := rfl

@[simp] theorem readReg_errcode (s : State) : readReg 0x08 s = errWord s.errcode := rfl

theorem statusWord_eq_three {p : Phase} : statusWord p = 3 ↔ p = .error := by
  cases p <;> decide

theorem errWord_eq_zero {e : ErrCode} : errWord e = 0 ↔ e = .noError := by
  cases e <;> decide

/-- Settles O31: a read of `STATUS` is `statusWord` of the phase. -/
theorem statusFollowsPhase : Obligations.StatusFollowsPhase := by
  refine ⟨fun s => ⟨?_, fun hp => statusWord_of_busy (Phase.isBusy_iff.2 hp), ?_, ?_⟩, fun s t hp => ?_,
    fun s d => rfl, rfl⟩
  · intro hp; rw [readReg_status, hp]; rfl
  · intro hp; rw [readReg_status, hp]; rfl
  · intro hp; rw [readReg_status, hp]; rfl
  · rw [readReg_status, readReg_status, hp]

/-- Settles O32: the equivalence is the invariant's clause read through the two words. -/
theorem errcodeNonzeroExactlyInError : Obligations.ErrcodeNonzeroExactlyInError := by
  refine ⟨rfl, rfl, rfl, rfl, readReg_errcode, fun s h => ?_, fun s d => rfl, rfl⟩
  rw [readReg_errcode, readReg_status, statusWord_eq_three, Ne, errWord_eq_zero]
  exact h.errIff

/-! ### Reset -/

/-- Settles O39: 64 offsets, and a block with no run in progress. -/
theorem resetStateReadsZero : Obligations.ResetStateReadsZero := by
  have hzero : ∀ off : Offset, readReg off State.reset = 0 := by decide
  refine ⟨rfl, hzero, ?_, ?_⟩
  · simp only [State.observe, hzero]
  · rw [step_of_nil rfl, blockTurn_of_quiescent rfl]

end Sys2Proof.Machine
end

section
/-! PROOFS. Who writes which register: the working registers (O47), the results (O52), and the live `ROM_LEN` that no run
reads (O50). -/

namespace Sys2Proof.Machine

/-! ### A step of a run writes working registers or results, never both -/

/-- A step of a run is one of the engine's in `CK_INIT` or `CK_LOOP`, which leaves the results alone, or it is the run's
last, which leaves the working registers alone (R31, R41, R42). -/
theorem advanceOf_cases {i : Instr} {s t : State} (h : advanceOf i s = .next t) :
    ((s.phase = .ckInit ∨ s.phase = .ckLoop) ∧ RunFrame s t) ∨
      ((t.phase = .done ∨ t.phase = .error) ∧ t.workRegs = s.workRegs) := by
  rcases instr_cases i with ⟨v, rfl⟩ | rfl | rfl | rfl
  · rw [advanceOf_checksumOf] at h
    rcases checksumStep_cases h with ⟨-, -, rfl⟩ | ⟨hp, -, rfl⟩ | ⟨hp, -, rfl⟩ | ⟨hp, -, rfl⟩ | ⟨-, rfl⟩
    · exact .inr ⟨.inr rfl, rfl⟩
    · exact .inl ⟨.inl hp, runFrame_seedRegisters _ _ _⟩
    · exact .inl ⟨.inr hp, runFrame_iterateDefault _ _⟩
    · exact .inl ⟨.inr hp, runFrame_iterateX105 _ _ _⟩
    · exact .inr ⟨.inl rfl, rfl⟩
  · obtain ⟨-, ⟨-, rfl⟩ | ⟨-, rfl⟩⟩ := detectStep_cases h
    · exact .inr ⟨.inr rfl, rfl⟩
    · exact .inr ⟨.inl rfl, rfl⟩
  · obtain ⟨-, ⟨-, rfl⟩ | ⟨-, rfl⟩⟩ := detectStep_cases h
    · exact .inr ⟨.inr rfl, rfl⟩
    · exact .inr ⟨.inl rfl, rfl⟩
  · obtain ⟨-, ⟨-, rfl⟩ | ⟨v, -, rfl⟩⟩ := resolveStep_cases h
    · exact .inr ⟨.inr rfl, rfl⟩
    · exact .inr ⟨.inl rfl, rfl⟩

theorem workRegs_latchOf (i : Instr) (s : State) : (latchOf i s).workRegs = s.workRegs := by
  cases i <;> rfl

/-- A write of `CMD` leaves the working registers alone, accepted or not (R240). -/
theorem workRegs_writeCmd {c : Word} {s t : State} (h : writeCmd c s = .next t) : t.workRegs = s.workRegs := by
  rcases writeCmd_cases h with ⟨-, rfl⟩ | ⟨-, i, -, rfl⟩ | ⟨-, -, rfl⟩ | ⟨-, -, rfl⟩
  · rfl
  · exact workRegs_latchOf i _
  · rfl
  · rfl

/-! ### Which turn a step is -/

/-- The turns in which the block moves: none pending, an idle turn, the wait loop (log entries 11 and 12). -/
def State.blocksTurn (s : State) : Prop :=
  s.script = [] ∨ ∃ rest, s.script = .idle :: rest ∨ s.script = .wait :: rest

/-- The host's next turn writes `c` to `CMD`, at its offset or at its bus address (R37, R36). -/
def State.writesCmd (s : State) (c : Word) : Prop :=
  ∃ rest, s.script = .write 0x00 .w32 c :: rest ∨ s.script = .busWrite Config.ckbase .w32 c :: rest

/-- What the host's turns other than a write of `CMD` and reset leave alone. -/
structure HostFrame (s t : State) : Prop where
  phase : t.phase = s.phase
  workRegs : t.workRegs = s.workRegs
  result0 : t.result0 = s.result0
  result1 : t.result1 = s.result1
  detect : t.detect = s.detect
  errcode : t.errcode = s.errcode

/-- A register write reaches `CMD` or only `ROM_LEN` and `ALIAS` (R36). -/
theorem hostWrite_turn {off : Offset} {width : Width} {d : Word} {s t : State}
    (h : hostWrite off width d s = .next t) :
    (off = 0x00 ∧ width = .w32 ∧ writeCmd d s = .next t) ∨ HostFrame s t := by
  obtain ⟨hw, -, ⟨h0, h⟩ | ⟨-, rfl⟩ | ⟨-, rfl⟩ | ⟨-, -, -, rfl⟩⟩ := hostWrite_cases h
  · exact .inl ⟨h0, hw, h⟩
  · exact .inr ⟨by simp, by simp [State.workRegs], by simp, by simp, by simp, by simp⟩
  · exact .inr ⟨by simp, by simp [State.workRegs], by simp, by simp, by simp, by simp⟩
  · exact .inr ⟨rfl, rfl, rfl, rfl, rfl, rfl⟩

/-- The turn a step is, by the agent and what it touches; `rest` and `d` are the turn's own bookkeeping. -/
inductive Turn (s t : State) : Prop
  /-- The block moves. -/
  | block (rest : List HostAction) (d : Word) (hs : s.blocksTurn)
      (h : blockTurn { s with script := rest, rdata := d } = .next t)
  /-- The host writes `CMD`. -/
  | command (c : Word) (rest : List HostAction) (hs : s.writesCmd c)
      (h : writeCmd c { s with script := rest } = .next t)
  /-- The reset input. -/
  | reset (rest : List HostAction) (hs : s.script = .reset :: rest) (h : t = resetBlock { s with script := rest })
  /-- Any other turn of the host. -/
  | other (h : HostFrame s t)

/-- Every step that goes through is such a turn. -/
theorem step_turn {s t : State} (h : step s = .next t) : Turn s t := by
  have same : ∀ (rest : List HostAction) (d : Word), HostFrame s { s with script := rest, rdata := d } :=
    fun _ _ => ⟨rfl, rfl, rfl, rfl, rfl, rfl⟩
  have taken : ∀ {rest : List HostAction}, HostFrame { s with script := rest } t → HostFrame s t :=
    fun hf => ⟨hf.phase, hf.workRegs, hf.result0, hf.result1, hf.detect, hf.errcode⟩
  cases hs : s.script with
  | nil =>
    rw [step_of_nil hs] at h
    exact .block s.script s.rdata (.inl hs) h
  | cons act rest =>
    rw [step_of_cons hs] at h
    cases act with
    | write off width d =>
      rcases hostWrite_turn h with ⟨rfl, rfl, hc⟩ | hf
      · exact .command d rest ⟨rest, .inl hs⟩ hc
      · exact .other (taken hf)
    | read off width =>
      obtain ⟨-, -, rfl⟩ := hostRead_cases h
      exact .other (same rest _)
    | busWrite addr width d =>
      rcases busAccess_cases h with ⟨off, ho, hw⟩ | ⟨-, -, rfl⟩
      · rcases hostWrite_turn hw with ⟨rfl, rfl, hc⟩ | hf
        · have haddr : addr = Config.ckbase := (windowOffset_eq_some.1 ho).trans (BitVec.add_zero _)
          subst haddr
          exact .command d rest ⟨rest, .inr hs⟩ hc
        · exact .other (taken hf)
      · exact .other (same rest s.rdata)
    | busRead addr width =>
      rcases busAccess_cases h with ⟨off, -, h⟩ | ⟨-, -, rfl⟩
      · obtain ⟨-, -, rfl⟩ := hostRead_cases h
        exact .other (same rest _)
      · exact .other (same rest s.rdata)
    | romByte off b =>
      simp only [hostTurn, hostRomByte] at h
      split at h
      · cases h
      · cases h
        exact .other ⟨rfl, rfl, rfl, rfl, rfl, rfl⟩
    | romWord off w =>
      simp only [hostTurn, hostRomWord] at h
      split at h
      · cases h
      · cases h
        exact .other ⟨rfl, rfl, rfl, rfl, rfl, rfl⟩
    | romFill size image =>
      cases h
      exact .other ⟨rfl, rfl, rfl, rfl, rfl, rfl⟩
    | reset =>
      cases h
      exact .reset rest hs rfl
    | wait =>
      simp only [hostTurn, waitTurn] at h
      split at h
      · exact .block s.script (statusWord s.phase) (.inr ⟨rest, .inr hs⟩) h
      · cases h
        exact .other (same rest _)
    | idle => exact .block rest s.rdata (.inr ⟨rest, .inl hs⟩) h

/-- Settles O47: of the four turns only the block's and reset reach a working register, the block's only in the engine's
steps. -/
theorem workRegsWrittenByTheEngineOnly : Obligations.WorkRegsWrittenByTheEngineOnly := by
  intro s t hstep hne
  cases step_turn hstep with
  | block rest d hs h =>
    rcases blockTurn_cases h with ⟨-, rfl⟩ | ⟨-, i, -, ht⟩
    · exact absurd rfl hne
    · rcases advanceOf_cases ht with ⟨hp, -⟩ | ⟨-, hw⟩
      · exact .inl ⟨hp, hs⟩
      · exact absurd hw hne
  | command c rest hs h => exact absurd (workRegs_writeCmd h) hne
  | reset rest hs _ => exact .inr ⟨rest, hs⟩
  | other h => exact absurd h.workRegs hne

/-- Settles O52: of the four turns only the block's last step, a write of `CMD` that is not ignored and reset reach a
result. -/
theorem resultsChangeOnlyAtRunBoundaries : Obligations.ResultsChangeOnlyAtRunBoundaries := by
  intro s t hstep hne
  cases step_turn hstep with
  | block rest d hs h =>
    rcases blockTurn_cases h with ⟨-, rfl⟩ | ⟨hb, i, -, ht⟩
    · simp at hne
    · rcases advanceOf_cases ht with ⟨-, hf⟩ | ⟨hp, -⟩
      · simp [hf.result0, hf.result1, hf.detect, hf.errcode] at hne
      · exact .inl ⟨hb, hp⟩
  | command c rest hs h =>
    obtain ⟨rest', hs⟩ := hs
    have hq : s.busy = false := by
      rcases writeCmd_cases h with ⟨-, rfl⟩ | ⟨hq, -⟩ | ⟨hq, -⟩ | ⟨hq, -⟩
      · simp at hne
      all_goals exact hq
    exact .inr (.inl ⟨hq, hs.imp (fun hs => ⟨c, rest', hs⟩) fun hs => ⟨_, c, rest', hs, rfl⟩⟩)
  | reset rest hs _ => exact .inr (.inr ⟨rest, hs⟩)
  | other h => simp [h.result0, h.result1, h.detect, h.errcode] at hne

/-! ### A run does not read `ROM_LEN` -/

/-- The transition does the same whatever `ROM_LEN` holds: a change of it before the step is only a change of it after. -/
def IgnoresRomLen (f : State → Result State) : Prop :=
  ∀ (s : State) (n : Word), f { s with romLen := n } = andThen (f s) fun t => .next { t with romLen := n }

theorem andThen_assoc {α β γ : Type} (o : Result α) (f : α → Result β) (g : β → Result γ) :
    andThen (andThen o f) g = andThen o fun a => andThen (f a) g := by
  cases o <;> rfl

theorem ignoresRomLen_ckInit (v : Variant) : IgnoresRomLen (ckInit v) := by
  intro s n
  unfold ckInit
  split
  · rfl
  · rw [andThen_assoc]; rfl

theorem ignoresRomLen_ckLoop (v : Variant) : IgnoresRomLen (ckLoop v) := by
  intro s n
  unfold ckLoop
  rw [andThen_assoc]
  split
  · simp only [andThen_assoc]; rfl
  · rfl

theorem ignoresRomLen_detHash (minLen off : Word) : IgnoresRomLen (detHash minLen off) := by
  intro s n
  unfold detHash
  split
  · rfl
  · rw [andThen_assoc]; rfl

theorem ignoresRomLen_alMap : IgnoresRomLen alMap := by
  intro s n
  unfold alMap
  cases aliasOf s.aliasReg <;> rfl

theorem ignoresRomLen_checksumStep (v : Variant) : IgnoresRomLen (checksumStep v) := by
  intro s n
  unfold checksumStep
  cases s.phase
  case ckInit => exact ignoresRomLen_ckInit v s n
  case ckLoop => exact ignoresRomLen_ckLoop v s n
  all_goals rfl

theorem ignoresRomLen_detectStep (minLen off : Word) : IgnoresRomLen (detectStep minLen off) := by
  intro s n
  unfold detectStep
  cases s.phase
  case detHash => exact ignoresRomLen_detHash minLen off s n
  all_goals rfl

theorem ignoresRomLen_resolveStep : IgnoresRomLen resolveStep := by
  intro s n
  unfold resolveStep
  cases s.phase
  case alMap => exact ignoresRomLen_alMap s n
  all_goals rfl

theorem ignoresRomLen_advanceOf (i : Instr) : IgnoresRomLen (advanceOf i) := by
  rcases instr_cases i with ⟨v, rfl⟩ | rfl | rfl | rfl
  · rw [advanceOf_checksumOf]
    exact ignoresRomLen_checksumStep v
  · exact ignoresRomLen_detectStep _ _
  · exact ignoresRomLen_detectStep _ _
  · exact ignoresRomLen_resolveStep

/-- Settles O50: acceptance is the one transition of a command that reads `ROM_LEN`, and a busy phase shuts it out. -/
theorem runsReadTheLatchedLength : Obligations.RunsReadTheLatchedLength := by
  intro i s n hb
  by_cases hl : s.latched = some i
  · rw [exec_of_latched hb hl, exec_of_latched (s := { s with romLen := n }) hb hl]
    exact ignoresRomLen_advanceOf i s n
  · rw [exec_of_other hb hl, exec_of_other (s := { s with romLen := n }) hb hl, andThen_next]

end Sys2Proof.Machine
end

section
/-! PROOFS. The ROM buffer: what a read answers and where it stops (O33, O34), and the two translated streams (O40,
O41). -/

namespace Sys2Proof.Machine

/-! ### The word a read answers -/

/-- The integer of two bit strings laid side by side. -/
theorem toNat_append_eq_add {m n : Nat} (x : BitVec m) (y : BitVec n) :
    (x ++ y).toNat = x.toNat * 2 ^ n + y.toNat := by
  rw [BitVec.toNat_append, ← Nat.shiftLeft_add_eq_or_of_lt y.isLt, Nat.shiftLeft_eq]

/-- The integer of a big-endian word (R72). -/
theorem toNat_bigEndian (b0 b1 b2 b3 : Byte) :
    (bigEndian b0 b1 b2 b3).toNat =
      b0.toNat * 2 ^ 24 + b1.toNat * 2 ^ 16 + b2.toNat * 2 ^ 8 + b3.toNat := by
  simp only [bigEndian_eq_append, toNat_append_eq_add]
  omega

/-- Settles O33: a word that is answered is the big-endian word at its offset. -/
theorem wordsAreBigEndian : Obligations.WordsAreBigEndian := by
  intro off s w h
  obtain ⟨-, -, rfl⟩ := memRead32_eq_next.1 h
  exact toNat_bigEndian _ _ _ _

/-! ### Where a read stops -/

/-- A read inside the buffer that meets a byte not connected is refused (U11). -/
theorem memRead32_of_unconnected {off : Word} {s : State} (h1 : off.toNat + 4 ≤ s.lenl.toNat)
    (h2 : s.romStorage < off.toNat + 4) : memRead32 off s = .refused .romNotConnected := by
  rw [memRead32, romCheck, if_neg (by omega), if_pos h2, andThen_refused]

/-- Inside the window a translated read is the plain one (R78, R79). -/
theorem memReadStream_of_inside {off : Word} (h : off.toNat + 4 ≤ 0x101000) (s : State) :
    memReadStream off s = memRead32 off s :=
  if_neg (Nat.not_lt.2 h)

/-- A `CK_LOOP` step faults exactly where one of its reads does: the main one, or for `X105` the second one after it
(R150, R156). -/
theorem ckLoop_eq_fault {v : Variant} {s : State} {r : Fault} :
    ckLoop v s = .fault r ↔
      memReadStream (romOffMain s.epr s.t1) s = .fault r ∨
        v = .x105 ∧ (∃ w, memReadStream (romOffMain s.epr s.t1) s = .next w) ∧
          memReadStream (romOffX105 s.s6) s = .fault r := by
  rw [ckLoop, andThen_eq_fault]
  by_cases hv : v = .x105
  · simp [hv, andThen_eq_fault]
  · simp [hv]

theorem checksumStep_of_ckInit (v : Variant) {s : State} (hp : s.phase = .ckInit) : checksumStep v s = ckInit v s := by
  rw [checksumStep, hp]

theorem checksumStep_of_ckLoop (v : Variant) {s : State} (hp : s.phase = .ckLoop) : checksumStep v s = ckLoop v s := by
  rw [checksumStep, hp]

theorem checksumStep_of_ckFinal (v : Variant) {s : State} (hp : s.phase = .ckFinal) :
    checksumStep v s = ckFinal v s := by
  rw [checksumStep, hp]

/-- Settles O34: each read has its three ranges, and a `CK_LOOP` step stops where one of its reads does. -/
theorem readOutsideBufferFaults : Obligations.ReadOutsideBufferFaults := by
  intro off s
  refine ⟨fun h => memRead32_eq_fault.2 ⟨h, rfl⟩, memRead32_of_unconnected, memRead32_of_le,
    fun h => memReadStream_eq_fault.2 ⟨.inl h, rfl⟩, fun h => memReadStream_of_inside h s, fun v hp hl => ?_⟩
  rw [exec_checksumOf_of_latched (by rw [State.busy, hp]; rfl) hl, checksumStep_of_ckLoop v hp, ckLoop_eq_fault]
  constructor
  · rintro rfl hout
    exact .inl (memReadStream_eq_fault.2 ⟨hout, rfl⟩)
  · rintro hv rfl hout hmain
    exact .inr ⟨hv, hmain, memReadStream_eq_fault.2 ⟨hout, rfl⟩⟩

/-! ### The translated streams -/

/-- The main-stream translation in integers (R78). -/
theorem toNat_romOffMain (epr addr : Word) :
    (romOffMain epr addr).toNat = (addr.toNat + (2 ^ 32 - epr.toNat) + 0x1000) % 2 ^ 32 := by
  have hbase : ckStreamBase.toNat = 0x1000 := rfl
  rw [romOffMain, BitVec.toNat_add, BitVec.toNat_sub, hbase]
  omega

/-- In the loop the entrypoint cancels: the offset read is the count of consumed bytes above 0x1000 (R78, R142). -/
theorem LoopInv.mainOffset {v : Variant} {s : State} (h : LoopInv v s) (ht : s.t0.toNat < 0x100000) :
    (romOffMain s.epr s.t1).toNat = 0x1000 + s.t0.toNat := by
  rw [h.cursor, romOffMain_cursor, BitVec.toNat_add]
  show (s.t0.toNat + 0x1000) % 2 ^ 32 = _
  omega

/-- In the loop of `X105` the second offset is in its cycle (R79, R156). -/
theorem LoopInv.secondOffset {s : State} (h : LoopInv .x105 s) :
    (romOffX105 s.s6).toNat = 0x750 + s.t0.toNat % 0x100 := by
  have hword := h.wordwise
  have hk : s.t0.toNat % 0x100 = 4 * (s.t0.toNat % 0x100 / 4) := by omega
  rw [h.pointer rfl, hk, romOffX105_cycle _ (by omega)]

/-- In a checksum phase the latched command is the `CHECKSUM` of some variant (R33). -/
theorem Inv.latched_checksum {s : State} (h : Inv s)
    (hp : s.phase = .ckInit ∨ s.phase = .ckLoop ∨ s.phase = .ckFinal) :
    ∃ v, s.latched = some (checksumOf v) := by
  obtain ⟨hopl, v, hvl⟩ := h.ckLatch hp
  exact ⟨v, latchedInstr_eq_checksumOf.2 ⟨hopl, hvl⟩⟩

/-- In `CK_LOOP` the loop's registers are consistent for the latched variant. -/
theorem Inv.loopInv {v : Variant} {s : State} (h : Inv s) (hp : s.phase = .ckLoop)
    (hl : s.latched = some (checksumOf v)) : s.t0.toNat < 0x100000 ∧ LoopInv v s := by
  obtain ⟨ht, hloops⟩ := h.inLoop hp
  exact ⟨ht, hloops v (latchedInstr_eq_checksumOf.1 hl).2⟩

/-- Settles O40: the loop's cursor is the entrypoint plus the bytes consumed. -/
theorem mainStreamOffset : Obligations.MainStreamOffset := by
  refine ⟨toNat_romOffMain, fun s h hp => ?_⟩
  obtain ⟨v, hl⟩ := h.latched_checksum (.inr (.inl hp))
  obtain ⟨ht, hloop⟩ := h.loopInv hp hl
  exact hloop.mainOffset ht

/-- The second pointer after `j` advances, by induction on the advances (R156). -/
theorem iterate_x105Next (j : Nat) :
    x105Next^[j] x105Ptr0 = x105Ptr0 + BitVec.ofNat 32 (4 * (j % 64)) := by
  induction j with
  | zero => rfl
  | succ j ih => rw [Function.iterate_succ_apply', ih, x105Next_cycle _ (Nat.mod_lt _ (by decide)), Nat.mod_add_mod]

/-- Settles O41: the pointer is known after every number of advances, and each of its 64 values has its offset. -/
theorem x105PointerCycles : Obligations.X105PointerCycles := by
  intro j
  have hptr := iterate_x105Next j
  refine ⟨hptr, ?_⟩
  show (romOffX105 (x105Next^[j] x105Ptr0)).toNat = _
  rw [hptr, romOffX105_cycle _ (Nat.mod_lt _ (by decide))]

end Sys2Proof.Machine
end

section
/-! PROOFS. No step faults from a state that meets the invariant (O44). -/

namespace Sys2Proof.Machine

/-! ### The steps of a run -/

/-- `CK_INIT` reads the entrypoint only after its length check (R141, R142). -/
theorem ckInit_ne_fault (v : Variant) (s : State) (r : Fault) : ckInit v s ≠ .fault r := by
  unfold ckInit
  split
  · simp
  · rename_i hlen
    have hlen : 0x101000 ≤ s.lenl.toNat := Nat.not_lt.1 hlen
    have hoff : epOff.toNat = 8 := rfl
    rw [ne_eq, andThen_eq_fault, memRead32_eq_fault, hoff]
    rintro (⟨hout, -⟩ | ⟨_, -, hnext⟩)
    · omega
    · cases hnext

/-- In the loop both reads are inside the window and the buffer (R75, R82, R167). -/
theorem ckLoop_ne_fault {v : Variant} {s : State} (h : LoopInv v s) (ht : s.t0.toNat < 0x100000) (r : Fault) :
    ckLoop v s ≠ .fault r := by
  have hlong : 0x101000 ≤ s.lenl.toNat := h.long
  have hword := h.wordwise
  rw [ne_eq, ckLoop_eq_fault, memReadStream_eq_fault, memReadStream_eq_fault, h.mainOffset ht]
  rintro (⟨hout, -⟩ | ⟨rfl, -, hout, -⟩)
  · omega
  · rw [h.secondOffset] at hout
    omega

/-- A detection reads its blob only after its length check (R200, R210). -/
theorem detHash_ne_fault {minLen off : Word} (h : off.toNat + ipl3HashLen ≤ minLen.toNat) (s : State) (r : Fault) :
    detHash minLen off s ≠ .fault r := by
  unfold detHash
  split
  · simp
  · rename_i hlen
    have hlen : minLen.toNat ≤ s.lenl.toNat := Nat.not_lt.1 hlen
    rw [ne_eq, andThen_eq_fault, memReadBytes_eq_fault]
    rintro (⟨hout, -⟩ | ⟨_, -, hnext⟩)
    · omega
    · cases hnext

theorem alMap_ne_fault (s : State) (r : Fault) : alMap s ≠ .fault r := by
  unfold alMap
  split <;> simp

/-! ### The block's turn -/

theorem detectStep_of_detHash (minLen off : Word) {s : State} (hp : s.phase = .detHash) :
    detectStep minLen off s = detHash minLen off s := by
  rw [detectStep, hp]

theorem resolveStep_of_alMap {s : State} (hp : s.phase = .alMap) : resolveStep s = alMap s := by
  rw [resolveStep, hp]

/-- The block's turn in the run of a latched command is that run's next step. -/
theorem blockTurn_eq_advanceOf {s : State} {i : Instr} (hb : s.busy = true) (hl : s.latched = some i) :
    blockTurn s = advanceOf i s := by
  rw [blockTurn_of_latched hb hl, exec_of_latched hb hl]

theorem blockTurn_eq_checksumStep {s : State} {v : Variant} (hb : s.busy = true)
    (hl : s.latched = some (checksumOf v)) : blockTurn s = checksumStep v s := by
  rw [blockTurn_eq_advanceOf hb hl, advanceOf_checksumOf]

/-- In each busy phase the latched command is one that has that phase, so its step is the phase's (R33, R34). -/
theorem blockTurn_ne_fault {s : State} (h : Inv s) (r : Fault) : blockTurn s ≠ .fault r := by
  cases hb : s.busy with
  | false => simp [blockTurn_of_quiescent hb]
  | true =>
    rcases Phase.isBusy_iff.1 hb with hp | hp | hp | hp | hp
    · obtain ⟨v, hl⟩ := h.latched_checksum (.inl hp)
      rw [blockTurn_eq_checksumStep hb hl, checksumStep_of_ckInit v hp]
      exact ckInit_ne_fault v s r
    · obtain ⟨v, hl⟩ := h.latched_checksum (.inr (.inl hp))
      obtain ⟨ht, hloop⟩ := h.loopInv hp hl
      rw [blockTurn_eq_checksumStep hb hl, checksumStep_of_ckLoop v hp]
      exact ckLoop_ne_fault hloop ht r
    · obtain ⟨v, hl⟩ := h.latched_checksum (.inr (.inr hp))
      rw [blockTurn_eq_checksumStep hb hl, checksumStep_of_ckFinal v hp, ckFinal]
      simp
    · rcases h.detLatch hp with hl | hl
      · rw [blockTurn_eq_advanceOf hb (latchedInstr_eq_detectIpl3.2 hl), advanceOf, detectStep_of_detHash _ _ hp]
        exact detHash_ne_fault (by decide) s r
      · rw [blockTurn_eq_advanceOf hb (latchedInstr_eq_detectRom.2 hl), advanceOf, detectStep_of_detHash _ _ hp]
        exact detHash_ne_fault (by decide) s r
    · have hl : s.latched = some .resolveAlias := latchedInstr_eq_resolveAlias.2 (h.alLatch hp)
      rw [blockTurn_eq_advanceOf hb hl, advanceOf, resolveStep_of_alMap hp]
      exact alMap_ne_fault s r

/-! ### The host's turns -/

theorem accessCheck_ne_fault (off : Offset) (width : Width) (r : Fault) : accessCheck off width ≠ .fault r := by
  unfold accessCheck
  split
  · simp
  · split <;> simp

theorem hostRead_ne_fault (off : Offset) (width : Width) (s : State) (r : Fault) :
    hostRead off width s ≠ .fault r := by
  simp [hostRead, andThen_eq_fault, accessCheck_ne_fault]

/-- A write of `CMD` accepts a command or raises an error and reads no byte (R240). -/
theorem writeCmd_ne_fault (c : Word) (s : State) (r : Fault) : writeCmd c s ≠ .fault r := by
  unfold writeCmd
  split
  · simp
  · rename_i hb
    cases decode c <;> simp [exec_of_quiescent (Bool.eq_false_of_not_eq_true hb)]

theorem hostWrite_ne_fault (off : Offset) (width : Width) (d : Word) (s : State) (r : Fault) :
    hostWrite off width d s ≠ .fault r := by
  rw [hostWrite, ne_eq, andThen_eq_fault]
  rintro (h | ⟨-, -, h⟩)
  · exact accessCheck_ne_fault off width r h
  · split at h
    · exact writeCmd_ne_fault d s r h
    · split at h
      · cases h
      · split at h <;> cases h

/-- A step that faults is the block's: no turn of the host reads the ROM buffer. -/
theorem step_fault {s : State} {r : Fault} (h : step s = .fault r) :
    ∃ rest d, blockTurn { s with script := rest, rdata := d } = .fault r := by
  cases hs : s.script with
  | nil => exact ⟨s.script, s.rdata, step_of_nil hs ▸ h⟩
  | cons act rest =>
    rw [step_of_cons hs] at h
    cases act with
    | write off width d => exact absurd h (hostWrite_ne_fault off width d _ r)
    | read off width => exact absurd h (hostRead_ne_fault off width _ r)
    | busWrite addr width d =>
      obtain ⟨off, -, h⟩ := busAccess_fault h
      exact absurd h (hostWrite_ne_fault off width d _ r)
    | busRead addr width =>
      obtain ⟨off, -, h⟩ := busAccess_fault h
      exact absurd h (hostRead_ne_fault off width _ r)
    | romByte off b =>
      simp only [hostTurn, hostRomByte] at h
      split at h <;> cases h
    | romWord off w =>
      simp only [hostTurn, hostRomWord] at h
      split at h <;> cases h
    | romFill size image => cases h
    | reset => cases h
    | wait =>
      simp only [hostTurn, waitTurn] at h
      split at h
      · exact ⟨s.script, statusWord s.phase, h⟩
      · cases h
    | idle => exact ⟨rest, s.rdata, h⟩

/-- Settles O44: a faulting step is the block's, whose state still meets the invariant. -/
theorem noFaultUnderTheInvariant : Obligations.NoFaultUnderTheInvariant := by
  intro s r h hstep
  obtain ⟨rest, d, hturn⟩ := step_fault hstep
  exact blockTurn_ne_fault (inv_hostFields h rest d s.romLen s.aliasReg) r hturn

end Sys2Proof.Machine
end

section
/-! PROOFS. What the commands leave alone (O48), what a whole run's results depend on (O59), and the accesses that have
no meaning (O29). -/

namespace Sys2Proof.Machine

/-! ### The host's part of the state -/

/-- The ROM buffer and what belongs to the host are as before (R70, R40, R43). -/
structure HostsStateKept (s t : State) : Prop where
  rom : t.rom = s.rom
  romStorage : t.romStorage = s.romStorage
  romLen : t.romLen = s.romLen
  aliasReg : t.aliasReg = s.aliasReg
  script : t.script = s.script
  rdata : t.rdata = s.rdata

theorem RunFrame.hostsStateKept {s t : State} (h : RunFrame s t) : HostsStateKept s t :=
  ⟨h.rom, h.romStorage, h.romLen, h.aliasReg, h.script, h.rdata⟩

theorem hostsStateKept_latchOf (i : Instr) (s : State) : HostsStateKept s (latchOf i (beginCommand s)) := by
  cases i <;> exact ⟨rfl, rfl, rfl, rfl, rfl, rfl⟩

theorem hostsStateKept_raiseError (e : ErrCode) (s : State) : HostsStateKept s (raiseError e s) :=
  ⟨rfl, rfl, rfl, rfl, rfl, rfl⟩

theorem hostsStateKept_writeResults (w0 w1 : Word) (s : State) : HostsStateKept s (writeResults w0 w1 s) :=
  ⟨rfl, rfl, rfl, rfl, rfl, rfl⟩

theorem hostsStateKept_writeDetect (m : Option Variant) (s : State) : HostsStateKept s (writeDetect m s) :=
  ⟨rfl, rfl, rfl, rfl, rfl, rfl⟩

theorem hostsStateKept_detectStep {minLen off : Word} {s t : State} (h : detectStep minLen off s = .next t) :
    HostsStateKept s t := by
  obtain ⟨-, ⟨-, rfl⟩ | ⟨-, rfl⟩⟩ := detectStep_cases h
  · exact hostsStateKept_raiseError _ s
  · exact hostsStateKept_writeDetect _ s

/-- No step of a run stores to the ROM buffer or writes a register of the host. -/
theorem hostsStateKept_advanceOf {i : Instr} {s t : State} (h : advanceOf i s = .next t) : HostsStateKept s t := by
  rcases instr_cases i with ⟨v, rfl⟩ | rfl | rfl | rfl
  · rw [advanceOf_checksumOf] at h
    rcases checksumStep_cases h with ⟨-, -, rfl⟩ | ⟨-, -, rfl⟩ | ⟨-, -, rfl⟩ | ⟨-, -, rfl⟩ | ⟨-, rfl⟩
    · exact hostsStateKept_raiseError _ s
    · exact (runFrame_seedRegisters _ _ s).hostsStateKept
    · exact (runFrame_iterateDefault _ s).hostsStateKept
    · exact (runFrame_iterateX105 _ _ s).hostsStateKept
    · exact hostsStateKept_writeResults _ _ s
  · exact hostsStateKept_detectStep h
  · exact hostsStateKept_detectStep h
  · obtain ⟨-, ⟨-, rfl⟩ | ⟨v, -, rfl⟩⟩ := resolveStep_cases h
    · exact hostsStateKept_raiseError _ s
    · exact hostsStateKept_writeDetect _ s

/-- Settles O48: acceptance, a run's step and a command turned away each keep the host's part of the state. -/
theorem commandsLeaveTheHostsStateAlone : Obligations.CommandsLeaveTheHostsStateAlone := by
  intro i s t h
  have hkept : HostsStateKept s t := by
    rcases exec_cases h with ⟨-, rfl⟩ | ⟨-, -, ht⟩ | ⟨-, -, rfl⟩
    · exact hostsStateKept_latchOf i s
    · exact hostsStateKept_advanceOf ht
    · exact ⟨rfl, rfl, rfl, rfl, rfl, rfl⟩
  exact ⟨fun a => by rw [hkept.rom], hkept.rom, hkept.romStorage, hkept.romLen, hkept.aliasReg, hkept.script,
    hkept.rdata⟩

/-! ### The results of a whole run -/

/-- A run on a buffer the host left alone ends with the reference's two words (R164, R166). -/
theorem run_ends_with_refWords {v : Variant} {s : State} (hp : s.phase = .ckInit)
    (hl : s.latched = some (checksumOf v)) (hs : s.script = []) (hm : s.tainted = false)
    (hlen : 0x101000 ≤ s.lenl.toNat) (hst : 0x101000 ≤ s.romStorage) :
    ∃ t, RunsTo 0x40002 s t ∧ (t.result0, t.result1) = refWordsFrom v s.rom (acc0 v) := by
  obtain ⟨u, -, -, hf, hrun⟩ := engine_completes hp hl hs hlen hst
  rw [writeResults_untainted _ _ (hf.tainted.trans hm)] at hrun
  exact ⟨_, hrun, rfl⟩

/-- Settles O59: both runs end with the reference's words, which read the windows only. -/
theorem resultsDependOnTheWindowOnly : Obligations.ResultsDependOnTheWindowOnly := by
  intro v s s' hp hl hs hm hlen hst hp' hl' hs' hm' hlen' hst' hwindow hsecond
  obtain ⟨t, hrun, ht⟩ := run_ends_with_refWords hp hl hs hm hlen hst
  obtain ⟨t', hrun', ht'⟩ := run_ends_with_refWords hp' hl' hs' hm' hlen' hst'
  have hwords : (t.result0, t.result1) = (t'.result0, t'.result1) := by
    rw [ht, ht', refWords_congr (acc0 v) hwindow hsecond]
  obtain ⟨h0, h1⟩ := Prod.mk.inj hwords
  exact ⟨t, t', hrun, hrun', h0, h1⟩

/-! ### Accesses without a meaning -/

/-- The width is judged first (R77, R261; log entry 18). -/
theorem accessCheck_of_width {width : Width} (h : width ≠ .w32) (off : Offset) :
    accessCheck off width = .refused .accessWidth := by
  rw [accessCheck, if_pos h]

theorem accessCheck_of_misaligned {off : Offset} (h : off.toNat % 4 ≠ 0) :
    accessCheck off .w32 = .refused .accessAlignment := by
  rw [accessCheck, if_neg (by simp), if_pos h]

/-- A turn that reads or writes the window stops as its access check stops. -/
theorem step_of_refused_access {s : State} {off : Offset} {width : Width} {d : Word} {rest : List HostAction}
    (hs : s.script = .write off width d :: rest ∨ s.script = .read off width :: rest) {r : Refusal}
    (h : accessCheck off width = .refused r) : step s = .refused r := by
  rcases hs with hs | hs
  · rw [step_of_cons hs, hostTurn, hostWrite, h, andThen_refused]
  · rw [step_of_cons hs, hostTurn, hostRead, h, andThen_refused]

/-- Settles O29: both turns begin with the access check, which refuses. -/
theorem undefinedAccessIsRefused : Obligations.UndefinedAccessIsRefused := by
  intro s off width d rest hs
  refine ⟨fun hw => step_of_refused_access hs (accessCheck_of_width hw off), ?_⟩
  rintro rfl ha
  exact step_of_refused_access hs (accessCheck_of_misaligned ha)

end Sys2Proof.Machine
end

section
/-! PROOFS. The command map: decode and encode agree over every word (O1, O2). -/

namespace Sys2Proof

/-! ### The three outcomes by the word's fields -/

theorem fieldsOf_checksumOf (v : Variant) : fieldsOf (checksumOf v) = ⟨1, variantCode v, 0⟩ := by
  rw [fieldsOf, opOf_checksumOf, vselOf_checksumOf]

@[simp] theorem fieldsOfWord_encode (i : Instr) : fieldsOfWord (encode i) = fieldsOf i :=
  fieldsOfWord_wordOfFields _

/-- A `CHECKSUM` word whose code names a variant decodes to that variant's command (R101, R106). -/
theorem decode_of_variantCode {c : Word} {v : Variant} (h : fieldsOfWord c = ⟨1, variantCode v, 0⟩) :
    decode c = .legal (checksumOf v) := by
  simp [decode, h]

/-- A `CHECKSUM` word whose code names no variant is unrecognized (R107). -/
theorem decode_of_no_variant {c : Word} {k : BitVec 4} (h : fieldsOfWord c = ⟨1, k, 0⟩) (hk : 6 ≤ k.toNat) :
    decode c = .unrecognizedVariant := by
  simp [decode, h, variantOfCode_eq_none.2 hk]

/-- The decoder reads a command back from its word (R105). -/
theorem decode_encode (i : Instr) : decode (encode i) = .legal i := by
  rcases instr_cases i with ⟨v, rfl⟩ | rfl | rfl | rfl
  · exact decode_of_variantCode ((fieldsOfWord_encode _).trans (fieldsOf_checksumOf v))
  · decide
  · decide
  · decide

/-- The fields of a word that is not illegal are a command's, or those of a `CHECKSUM` whose code names no variant
(R103, R104, R107). -/
theorem fields_of_decode_ne_illegal {c : Word} (h : decode c ≠ .illegalCommand) :
    (∃ i, fieldsOfWord c = fieldsOf i) ∨ ∃ k : BitVec 4, 6 ≤ k.toNat ∧ fieldsOfWord c = ⟨1, k, 0⟩ := by
  rcases hf : fieldsOfWord c with ⟨op, vsel, rsvd⟩
  by_cases hr : rsvd = 0
  case neg => exact absurd (by simp only [decode, hf, ne_eq, hr, not_false_eq_true, if_true]) h
  subst hr
  by_cases h1 : op = 1
  · subst h1
    cases hv : variantOfCode vsel with
    | some v => exact .inl ⟨checksumOf v, by rw [fieldsOf_checksumOf, variantOfCode_eq_some.1 hv]⟩
    | none => exact .inr ⟨vsel, variantOfCode_eq_none.1 hv, rfl⟩
  by_cases hv : vsel = 0
  case neg => exact absurd (by simp only [decode, hf, ne_eq, h1, hv, not_false_eq_true, if_true, if_false, ite_self]) h
  subst hv
  by_cases h2 : op = 2
  · exact .inl ⟨.detectIpl3, by rw [h2]; rfl⟩
  by_cases h3 : op = 3
  · exact .inl ⟨.detectRom, by rw [h3]; rfl⟩
  by_cases h4 : op = 4
  · exact .inl ⟨.resolveAlias, by rw [h4]; rfl⟩
  exact absurd (by simp only [decode, hf, h1, h2, h3, h4, if_false, ite_self]) h

/-! ### The three outcomes by the word -/

/-- A word decodes to a command exactly when it is that command's word (R105). -/
theorem decode_eq_legal {c : Word} {i : Instr} : decode c = .legal i ↔ c = encode i := by
  constructor
  · intro h
    rcases fields_of_decode_ne_illegal (c := c) (by simp [h]) with ⟨j, hf⟩ | ⟨k, hk, hf⟩
    · have hc : c = encode j := eq_of_fieldsOfWord_eq (hf.trans (fieldsOfWord_encode j).symm)
      rw [hc, decode_encode] at h
      rw [hc, Decoded.legal.inj h]
    · simp [decode_of_no_variant hf hk] at h
  · rintro rfl
    exact decode_encode i

/-- The `CHECKSUM` word with a given code in its `VSEL` field (R100). -/
theorem fieldsOfWord_checksum_word {k : Nat} (hk : k ≤ 15) :
    fieldsOfWord (BitVec.ofNat 32 (16 * k + 1)) = ⟨1, BitVec.ofNat 4 k, 0⟩ := by
  have key : ∀ k : Fin 16, fieldsOfWord (BitVec.ofNat 32 (16 * k.1 + 1)) = ⟨1, BitVec.ofNat 4 k.1, 0⟩ := by decide
  exact key ⟨k, by omega⟩

/-- A word is an unrecognized variant exactly when it is 0x61 to 0xF1 in steps of 0x10 (R105, R107). -/
theorem decode_eq_unrecognizedVariant {c : Word} :
    decode c = .unrecognizedVariant ↔ ∃ k : Nat, 6 ≤ k ∧ k ≤ 15 ∧ c = BitVec.ofNat 32 (16 * k + 1) := by
  constructor
  · intro h
    rcases fields_of_decode_ne_illegal (c := c) (by simp [h]) with ⟨i, hf⟩ | ⟨k, hk, hf⟩
    · rw [decode_eq_legal.2 (eq_of_fieldsOfWord_eq (hf.trans (fieldsOfWord_encode i).symm))] at h
      cases h
    · have hle : k.toNat ≤ 15 := Nat.le_of_lt_succ k.isLt
      refine ⟨k.toNat, hk, hle, eq_of_fieldsOfWord_eq ?_⟩
      rw [hf, fieldsOfWord_checksum_word hle, BitVec.ofNat_toNat, BitVec.setWidth_eq]
  · rintro ⟨k, h6, h15, rfl⟩
    exact decode_of_no_variant (fieldsOfWord_checksum_word h15) (by rw [BitVec.toNat_ofNat]; omega)

/-- Every word that is neither of a command nor an unrecognized variant is illegal (R104, R105). -/
theorem decode_eq_illegalCommand {c : Word} :
    decode c = .illegalCommand ↔ (∀ i, decode c ≠ .legal i) ∧ decode c ≠ .unrecognizedVariant := by
  cases decode c <;> simp

/-- Settles O2: the word's fields decide the outcome, and a word is its fields. -/
theorem commandMapIsComplete : Obligations.CommandMapIsComplete := by
  refine ⟨rfl, rfl, rfl, rfl, rfl, rfl, rfl, rfl, rfl, fun c i => decode_eq_legal,
    fun c => decode_eq_unrecognizedVariant, fun c => ?_⟩
  rw [decode_eq_illegalCommand]
  refine and_congr (forall_congr' fun i => not_congr decode_eq_legal) ?_
  rw [ne_eq, decode_eq_unrecognizedVariant]
  simp only [not_exists, not_and, ne_eq]

/-- Settles O1: each of the nine words is its command's encoding. -/
theorem legalWordsDecode : Obligations.LegalWordsDecode :=
  ⟨decode_encode .checksum6101, decode_encode .checksum6102_7101, decode_encode .checksum7102,
    decode_encode .checksumX103, decode_encode .checksumX105, decode_encode .checksumX106,
    decode_encode .detectIpl3, decode_encode .detectRom, decode_encode .resolveAlias⟩

end Sys2Proof
end

section
/-! PROOFS. The host's changes of the ROM buffer: a word, a byte, an image (O35, O36). -/

namespace Sys2Proof.Machine

/-- New contents mark the run exactly when one is in progress and its buffer changes (R290). -/
theorem setRom_tainted_iff {m : Memory} {n : Nat} {s : State} (hm : m.wf) (hs : s.rom.wf) :
    (setRom m n s).tainted = true ↔ s.tainted = true ∨ s.busy = true ∧
      ((∃ a < s.lenl.toNat, m.read a ≠ s.rom.read a) ∨ min n s.lenl.toNat ≠ min s.romStorage s.lenl.toNat) := by
  rw [setRom_tainted, Bool.or_eq_true, Bool.and_eq_true, changesBuffer_iff hm hs]

/-- On the same storage only a changed byte marks the run. -/
theorem setRom_tainted_iff_of_same_storage {m : Memory} {s : State} (hm : m.wf) (hs : s.rom.wf) :
    (setRom m s.romStorage s).tainted = true ↔
      s.tainted = true ∨ s.busy = true ∧ ∃ a < s.lenl.toNat, m.read a ≠ s.rom.read a := by
  rw [setRom_tainted_iff hm hs]
  simp only [ne_eq, not_true_eq_false, or_false]

/-- Inside the storage a word write goes through (R117). -/
theorem hostRomWord_of_le {off : Word} {s : State} (h : off.toNat + 4 ≤ s.romStorage) (w : Word) :
    hostRomWord off w s = .next (setRom (s.rom.writeWord off.toNat w) s.romStorage s) :=
  if_neg (Nat.not_lt.2 h)

/-- Inside the storage a byte write goes through (R260). -/
theorem hostRomByte_of_le {off : Word} {s : State} (h : off.toNat + 1 ≤ s.romStorage) (b : Byte) :
    hostRomByte off b s = .next (setRom (s.rom.write off.toNat b) s.romStorage s) :=
  if_neg (Nat.not_lt.2 h)

/-- A byte write changes a byte below `n` exactly when its own byte is there and differs. -/
theorem Memory.write_changes_iff {m : Memory} (hm : m.wf) (off n : Nat) (b : Byte) :
    (∃ a < n, (m.write off b).read a ≠ m.read a) ↔ off < n ∧ m.read off ≠ b := by
  constructor
  · rintro ⟨a, ha, hne⟩
    obtain rfl : a = off := by_contra fun h => hne (Memory.read_write_other hm b h)
    rw [Memory.read_write_same hm] at hne
    exact ⟨ha, hne.symm⟩
  · rintro ⟨hlt, hne⟩
    exact ⟨off, hlt, by rw [Memory.read_write_same hm]; exact hne.symm⟩

/-- Settles O35: the turn gives the ROM port the contents with the word written. -/
theorem hostRomWordWritesFourBytes : Obligations.HostRomWordWritesFourBytes := by
  intro s off w rest hs hwf hle
  refine ⟨s.rom.writeWord off.toNat w,
    (setRom (s.rom.writeWord off.toNat w) s.romStorage { s with script := rest }).tainted, ?_,
    Memory.word_writeWord hwf _ w, fun a ha => ?_, ?_⟩
  · rw [step_of_cons hs]
    exact hostRomWord_of_le (s := { s with script := rest }) hle w
  · rw [Memory.read_writeWord hwf, if_neg (by omega)]
  · exact setRom_tainted_iff_of_same_storage (s := { s with script := rest }) (Memory.wf_writeWord hwf _ w) hwf

/-- Settles O36: the turn gives the ROM port the contents with the byte written, or those of the image. -/
theorem hostLoadsTheBuffer : Obligations.HostLoadsTheBuffer := by
  intro s rest hwf
  refine ⟨fun off b hs hle => ?_, fun size image hs => ?_⟩
  · refine ⟨s.rom.write off.toNat b,
      (setRom (s.rom.write off.toNat b) s.romStorage { s with script := rest }).tainted, ?_,
      Memory.read_write_same hwf _ b, fun a ha => Memory.read_write_other hwf b ha, ?_⟩
    · rw [step_of_cons hs]
      exact hostRomByte_of_le (s := { s with script := rest }) hle b
    · rw [← Memory.write_changes_iff hwf]
      exact setRom_tainted_iff_of_same_storage (s := { s with script := rest }) (Memory.wf_write hwf _ b) hwf
  · refine ⟨Memory.ofImage size image, (setRom (Memory.ofImage size image) size { s with script := rest }).tainted, ?_,
      fun a ha => Memory.read_ofImage_other ha, fun hp c hc hsize => Memory.read_ofImage_mem hp hc hsize, ?_⟩
    · rw [step_of_cons hs]
      rfl
    · exact setRom_tainted_iff (s := { s with script := rest }) (Memory.wf_ofImage size image) hwf

end Sys2Proof.Machine
end

section
/-! PROOFS. Progress: with the whole buffer connected every step of a run goes through and leaves fewer to make, so the
host's wait loop ends (O46). -/

namespace Sys2Proof.Machine

/-! ### No step of a run is refused on a connected buffer (U11) -/

/-- A chain is refused where one of its parts is. -/
theorem andThen_eq_refused {α β : Type} {o : Result α} {f : α → Result β} {r : Refusal} :
    andThen o f = .refused r ↔ o = .refused r ∨ ∃ a, o = .next a ∧ f a = .refused r := by
  cases o <;> simp [andThen]

section
variable {s : State} (hst : s.lenl.toNat ≤ s.romStorage)
include hst

theorem romCheck_ne_refused (off : Word) (n : Nat) (r : Refusal) : romCheck off n s ≠ .refused r := by
  unfold romCheck
  split
  · simp
  · rw [if_neg (by omega)]; simp

theorem memRead32_ne_refused (off : Word) (r : Refusal) : memRead32 off s ≠ .refused r := by
  simp [memRead32, andThen_eq_refused, romCheck_ne_refused hst]

theorem memReadStream_ne_refused (off : Word) (r : Refusal) : memReadStream off s ≠ .refused r := by
  unfold memReadStream
  split
  · simp
  · exact memRead32_ne_refused hst off r

theorem memReadBytes_ne_refused (off : Word) (n : Nat) (r : Refusal) : memReadBytes off n s ≠ .refused r := by
  simp [memReadBytes, andThen_eq_refused, romCheck_ne_refused hst]

theorem ckInit_ne_refused (v : Variant) (r : Refusal) : ckInit v s ≠ .refused r := by
  unfold ckInit
  split
  · simp
  · simp [andThen_eq_refused, memRead32_ne_refused hst]

theorem ckLoop_ne_refused (v : Variant) (r : Refusal) : ckLoop v s ≠ .refused r := by
  unfold ckLoop
  by_cases hv : v = .x105
  · simp [hv, andThen_eq_refused, memReadStream_ne_refused hst]
  · simp [hv, andThen_eq_refused, memReadStream_ne_refused hst]

theorem checksumStep_ne_refused (v : Variant) (r : Refusal) : checksumStep v s ≠ .refused r := by
  cases hp : s.phase with
  | ckInit => rw [checksumStep_of_ckInit v hp]; exact ckInit_ne_refused hst v r
  | ckLoop => rw [checksumStep_of_ckLoop v hp]; exact ckLoop_ne_refused hst v r
  | ckFinal => rw [checksumStep_of_ckFinal v hp, ckFinal]; simp
  | _ => simp [checksumStep, hp]

theorem detectStep_ne_refused (minLen off : Word) (r : Refusal) : detectStep minLen off s ≠ .refused r := by
  cases hp : s.phase with
  | detHash =>
    rw [detectStep_of_detHash _ _ hp, detHash]
    split
    · simp
    · simp [andThen_eq_refused, memReadBytes_ne_refused hst]
  | _ => simp [detectStep, hp]

omit hst in
theorem resolveStep_ne_refused (r : Refusal) : resolveStep s ≠ .refused r := by
  cases hp : s.phase with
  | alMap =>
    rw [resolveStep_of_alMap hp, alMap]
    split <;> simp
  | _ => simp [resolveStep, hp]

theorem advanceOf_ne_refused (i : Instr) (r : Refusal) : advanceOf i s ≠ .refused r := by
  rcases instr_cases i with ⟨v, rfl⟩ | rfl | rfl | rfl
  · rw [advanceOf_checksumOf]
    exact checksumStep_ne_refused hst v r
  · exact detectStep_ne_refused hst _ _ r
  · exact detectStep_ne_refused hst _ _ r
  · exact resolveStep_ne_refused r

theorem blockTurn_ne_refused (r : Refusal) : blockTurn s ≠ .refused r := by
  cases hb : s.busy with
  | false => simp [blockTurn_of_quiescent hb]
  | true =>
    cases hl : s.latched with
    | none => simp [blockTurn, hb, hl]
    | some i => rw [blockTurn_eq_advanceOf hb hl]; exact advanceOf_ne_refused hst i r

/-- Under the invariant the block's turn goes through. -/
theorem blockTurn_goes_through (h : Inv s) : ∃ t, blockTurn s = .next t := by
  cases ht : blockTurn s with
  | next t => exact ⟨t, rfl⟩
  | fault r => exact absurd ht (blockTurn_ne_fault h r)
  | refused r => exact absurd ht (blockTurn_ne_refused hst r)

end

/-! ### The steps a run still has to make (R294) -/

/-- An upper bound of the steps to the end of the run in progress: one to start a checksum, one for each word left, one
to end it; one for every other command. -/
def State.stepsLeft (s : State) : Nat :=
  match s.phase with
  | .ckInit => 0x40002
  | .ckLoop => 0x40001 - s.t0.toNat / 4
  | .ckFinal => 1
  | .detHash => 1
  | .alMap => 1
  | .idle => 0
  | .done => 0
  | .error => 0

theorem stepsLeft_of_ckInit {s : State} (hp : s.phase = .ckInit) : s.stepsLeft = 0x40002 := by
  rw [State.stepsLeft, hp]

theorem stepsLeft_of_ckLoop {s : State} (hp : s.phase = .ckLoop) : s.stepsLeft = 0x40001 - s.t0.toNat / 4 := by
  rw [State.stepsLeft, hp]

theorem stepsLeft_of_ckFinal {s : State} (hp : s.phase = .ckFinal) : s.stepsLeft = 1 := by
  rw [State.stepsLeft, hp]

theorem stepsLeft_of_quiescent {s : State} (hb : s.busy = false) : s.stepsLeft = 0 := by
  rcases Phase.not_isBusy_iff.1 hb with hp | hp | hp <;> rw [State.stepsLeft, hp]

theorem stepsLeft_le (s : State) : s.stepsLeft ≤ 0x40002 := by
  unfold State.stepsLeft
  split <;> omega

/-- In the loop the bound is of the words not yet read, and at least one is left (R34). -/
theorem stepsLeft_pos {s : State} (h : Inv s) (hb : s.busy = true) : 0 < s.stepsLeft := by
  rcases Phase.isBusy_iff.1 hb with hp | hp | hp | hp | hp
  · simp [stepsLeft_of_ckInit hp]
  · have ht := (h.inLoop hp).1
    rw [stepsLeft_of_ckLoop hp]
    omega
  · simp [stepsLeft_of_ckFinal hp]
  · simp [State.stepsLeft, hp]
  · simp [State.stepsLeft, hp]

/-- What a step of a run does for the wait on its end. -/
structure Progress (s t : State) : Prop where
  kept : HostsStateKept s t
  lenl : t.lenl = s.lenl
  notIdle : t.phase ≠ .idle
  fewer : t.stepsLeft < s.stepsLeft

/-- A run's last step leaves none to make. -/
theorem progress_of_end {s t : State} (h : Inv s) (hb : s.busy = true) (hk : HostsStateKept s t)
    (hl : t.lenl = s.lenl) (hp : t.phase = .done ∨ t.phase = .error) : Progress s t where
  kept := hk
  lenl := hl
  notIdle := by rcases hp with hp | hp <;> simp [hp]
  fewer := by
    rw [stepsLeft_of_quiescent (Phase.not_isBusy_iff.2 (.inr hp))]
    exact stepsLeft_pos h hb

/-- An iteration leaves one word less (R157, R158). -/
theorem progress_of_advances {v : Variant} {s t : State} (h : Inv s) (hp : s.phase = .ckLoop)
    (hl : s.latched = some (checksumOf v)) (ha : Advances v s t) : Progress s t := by
  obtain ⟨ht, hloop⟩ := h.loopInv hp hl
  have hword := hloop.wordwise
  have ht0 : t.t0.toNat = s.t0.toNat + 4 := by rw [ha.t0, t0_add_four ht]
  have hphase := ha.phase
  refine ⟨ha.frame.hostsStateKept, ha.frame.lenl, ?_, ?_⟩
  · rw [hphase]; split <;> simp
  · rw [stepsLeft_of_ckLoop hp]
    split at hphase
    · rw [stepsLeft_of_ckFinal hphase]; omega
    · rw [stepsLeft_of_ckLoop hphase]; omega

/-- Every step of a run is progress. -/
theorem progress_of_advanceOf {i : Instr} {s t : State} (h : Inv s) (hb : s.busy = true) (hl : s.latched = some i)
    (ht : advanceOf i s = .next t) : Progress s t := by
  have hkept := hostsStateKept_advanceOf ht
  rcases instr_cases i with ⟨v, rfl⟩ | rfl | rfl | rfl
  · rw [advanceOf_checksumOf] at ht
    rcases checksumStep_cases ht with ⟨-, -, rfl⟩ | ⟨hp, -, rfl⟩ | ⟨hp, hv, rfl⟩ | ⟨hp, -, rfl⟩ | ⟨-, rfl⟩
    · exact progress_of_end h hb hkept rfl (.inr rfl)
    · refine ⟨hkept, rfl, by simp, ?_⟩
      rw [stepsLeft_of_ckInit hp, stepsLeft_of_ckLoop rfl]
      omega
    · exact progress_of_advances h hp hl (advances_iterateDefault hv _ s)
    · exact progress_of_advances h hp hl (advances_iterateX105 v _ _ s)
    · exact progress_of_end h hb hkept rfl (.inl rfl)
  · obtain ⟨-, ⟨-, rfl⟩ | ⟨-, rfl⟩⟩ := detectStep_cases ht
    · exact progress_of_end h hb hkept rfl (.inr rfl)
    · exact progress_of_end h hb hkept rfl (.inl rfl)
  · obtain ⟨-, ⟨-, rfl⟩ | ⟨-, rfl⟩⟩ := detectStep_cases ht
    · exact progress_of_end h hb hkept rfl (.inr rfl)
    · exact progress_of_end h hb hkept rfl (.inl rfl)
  · obtain ⟨-, ⟨-, rfl⟩ | ⟨v, -, rfl⟩⟩ := resolveStep_cases ht
    · exact progress_of_end h hb hkept rfl (.inr rfl)
    · exact progress_of_end h hb hkept rfl (.inl rfl)

/-- With a run in progress and its buffer connected the block's turn is progress. -/
theorem blockTurn_progress {s : State} (h : Inv s) (hb : s.busy = true) (hst : s.lenl.toNat ≤ s.romStorage) :
    ∃ t, blockTurn s = .next t ∧ Inv t ∧ Progress s t := by
  obtain ⟨t, ht⟩ := blockTurn_goes_through hst h
  rcases blockTurn_cases ht with ⟨hq, -⟩ | ⟨-, i, hl, ha⟩
  · simp [hb] at hq
  · exact ⟨t, ht, inv_advanceOf h hb hl ha, progress_of_advanceOf h hb hl ha⟩

/-! ### The wait loop (R118) -/

/-- A pass of the wait loop during a run is the block's turn after the read of `STATUS`. -/
theorem step_of_wait_busy {s : State} {rest : List HostAction} (hs : s.script = .wait :: rest) (hb : s.busy = true) :
    step s = blockTurn { s with rdata := statusWord s.phase } := by
  rw [step_of_cons hs, hostTurn, waitTurn, if_pos hb]

/-- With no run in progress the wait loop ends with the read of `STATUS`. -/
theorem step_of_wait_quiescent {s : State} {rest : List HostAction} (hs : s.script = .wait :: rest)
    (hb : s.busy = false) : step s = .next { s with rdata := statusWord s.phase, script := rest } := by
  rw [step_of_cons hs, hostTurn, waitTurn, hb]; rfl

/-- The host is past its wait loop: the run is over and its final `STATUS` is read. -/
def WaitOver (rest : List HostAction) (t : State) : Prop :=
  t.script = rest ∧ ((t.phase = .done ∧ t.rdata = 2) ∨ (t.phase = .error ∧ t.rdata = 3))

/-- The last pass reads the `STATUS` of the phase the run ended in. -/
theorem waitOver_of_quiescent {s : State} {rest : List HostAction} (hb : s.busy = false) (hp : s.phase ≠ .idle) :
    WaitOver rest { s with rdata := statusWord s.phase, script := rest } := by
  have hover := (Phase.not_isBusy_iff.1 hb).resolve_left hp
  exact ⟨rfl, hover.imp (fun hd => ⟨hd, congrArg statusWord hd⟩) fun he => ⟨he, congrArg statusWord he⟩⟩

/-- The wait loop from any state but `IDLE`, by induction on the steps left to the run. -/
theorem wait_ends {s : State} {rest : List HostAction} (h : Inv s) (hp : s.phase ≠ .idle)
    (hs : s.script = .wait :: rest) (hst : s.lenl.toNat ≤ s.romStorage) :
    ∃ n t, n ≤ s.stepsLeft + 1 ∧ RunsTo n s t ∧ WaitOver rest t := by
  induction hk : s.stepsLeft using Nat.strongRecOn generalizing s with
  | ind k ih =>
    subst hk
    cases hb : s.busy with
    | false =>
      exact ⟨1, _, by omega, runsTo_one.2 (step_of_wait_quiescent hs hb), waitOver_of_quiescent hb hp⟩
    | true =>
      have hread := inv_hostFields h s.script (statusWord s.phase) s.romLen s.aliasReg
      obtain ⟨u, hu, hinv, hprog⟩ := blockTurn_progress hread hb hst
      have hfewer : u.stepsLeft < s.stepsLeft := hprog.fewer
      have hconnected : u.lenl.toNat ≤ u.romStorage := by
        rw [hprog.lenl, hprog.kept.romStorage]
        exact hst
      obtain ⟨n, t, hn, hrun, hover⟩ :=
        ih u.stepsLeft hfewer hinv hprog.notIdle (hprog.kept.script.trans hs) hconnected rfl
      exact ⟨n + 1, t, by omega, runsTo_succ.2 ⟨u, (step_of_wait_busy hs hb).trans hu, hrun⟩, hover⟩

/-- Settles O46: a run in progress is at most 0x40002 steps from its end, and the last pass reads `STATUS`. -/
theorem waitEnds : Obligations.WaitEnds := by
  intro s rest h hb hs hst
  have hp : s.phase ≠ .idle := fun hp => by simp [State.busy, hp, Phase.isBusy] at hb
  obtain ⟨n, t, hn, hrun, hover⟩ := wait_ends h hp hs hst
  exact ⟨n, t, hn.trans (Nat.succ_le_succ (stepsLeft_le s)), hrun, hover⟩

end Sys2Proof.Machine
end

section
/-! PROOFS. The three kinds of step of a checksum run, each as its exact next state (O11 to O17). -/

namespace Sys2Proof.Machine

/-! ### Which step the command makes -/

/-- In `CK_INIT` the latched `CHECKSUM` makes its `CK_INIT` step (R34, R140). -/
theorem exec_checksumOf_of_ckInit {v : Variant} {s : State} (hp : s.phase = .ckInit)
    (hl : s.latched = some (checksumOf v)) : exec (checksumOf v) s = ckInit v s := by
  rw [exec_checksumOf_of_latched (by rw [State.busy, hp]; rfl) hl, checksumStep_of_ckInit v hp]

/-- In `CK_LOOP` the latched `CHECKSUM` makes one iteration (R34, R140). -/
theorem exec_checksumOf_of_ckLoop {v : Variant} {s : State} (hp : s.phase = .ckLoop)
    (hl : s.latched = some (checksumOf v)) : exec (checksumOf v) s = ckLoop v s := by
  rw [exec_checksumOf_of_latched (by rw [State.busy, hp]; rfl) hl, checksumStep_of_ckLoop v hp]

/-- In `CK_FINAL` the latched `CHECKSUM` writes the combined words (R34, R140, R164). -/
theorem exec_checksumOf_of_ckFinal {v : Variant} {s : State} (hp : s.phase = .ckFinal)
    (hl : s.latched = some (checksumOf v)) :
    exec (checksumOf v) s = .next (writeResults (combine0 v s.a3 s.t2 s.t3) (combine1 v s.s0 s.a2 s.t4) s) := by
  rw [exec_checksumOf_of_latched (by rw [State.busy, hp]; rfl) hl, checksumStep_of_ckFinal v hp, ckFinal]

/-! ### CK_INIT -/

/-- The length check comes before any read (R141). -/
theorem ckInit_of_short (v : Variant) {s : State} (h : s.lenl.toNat < 0x101000) :
    ckInit v s = .next (raiseError .bufferTooSmall s) :=
  if_pos h

/-- A long enough buffer seeds the run from the word at byte 8 (R142, C3). -/
theorem ckInit_of_long (v : Variant) {s : State} (h : 0x101000 ≤ s.lenl.toNat) (hst : 0xC ≤ s.romStorage) :
    ckInit v s = .next (seedRegisters v (s.rom.word 8) s) := by
  have hread : memRead32 epOff s = .next (s.rom.word 8) :=
    memRead32_of_le (show 8 + 4 ≤ s.lenl.toNat by omega) hst
  rw [ckInit, if_neg (show ¬ s.lenl < ckMinLen from Nat.not_lt.2 h), hread, andThen_next]

/-- The entrypoint offsets: `X103` and `X106` have one (R48). -/
theorem epAdj_eq (v : Variant) :
    epAdj v = if v = .x103 then 0xFFF00000 else if v = .x106 then 0xFFE00000 else 0 := by
  cases v <;> rfl

/-- Settles O11: the length check decides, at 0x101000 bytes, which of the two ends the step has. -/
theorem shortBufferRaises : Obligations.ShortBufferRaises := by
  intro v s hp hl
  rw [exec_checksumOf_of_ckInit hp hl]
  constructor
  · intro hshort hm
    rw [ckInit_of_short v hshort, raiseError_untainted _ hm]
  · intro hlong hst
    exact ⟨_, ckInit_of_long v hlong hst, rfl, rfl⟩

/-- Settles O12: the seeded state, with the entrypoint offset as the table of R48. -/
theorem ckInitSeedsTheRun : Obligations.CkInitSeedsTheRun := by
  intro v s hp hl hlong hst
  rw [exec_checksumOf_of_ckInit hp hl, ckInit_of_long v hlong hst, seedRegisters, epAdj_eq]
  rfl

/-! ### CK_LOOP -/

/-- An iteration of every variant but `X105` (R150, R155). -/
theorem ckLoop_of_default {v : Variant} (hv : v ≠ .x105) {s : State} {w : Word}
    (hw : memReadStream (romOffMain s.epr s.t1) s = .next w) : ckLoop v s = .next (iterateDefault w s) := by
  rw [ckLoop, hw, andThen_next, if_neg hv]

/-- An iteration of `X105`: both words are read before anything is written (R150, R156). -/
theorem ckLoop_of_x105 {s : State} {w x : Word} (hw : memReadStream (romOffMain s.epr s.t1) s = .next w)
    (hx : memReadStream (romOffX105 s.s6) s = .next x) : ckLoop .x105 s = .next (iterateX105 w x s) := by
  rw [ckLoop, hw, andThen_next, if_pos rfl, hx, andThen_next]

/-- Steps b to e with the carry as an integer sum, the comparison over the integers, and the rotation by the word's low
five bits (R151 to R154). -/
theorem mixRegisters_eq (w : Word) (s : State) :
    mixRegisters w s =
      { s with
        t2 := if 2 ^ 32 ≤ s.a3.toNat + w.toNat then s.t2 + 1 else s.t2
        a2 := if s.a2.toNat < w.toNat then ((s.a3 + w) ^^^ w) ^^^ s.a2
          else s.a2 ^^^ w.rotateLeft (w.toNat % 32)
        a3 := s.a3 + w
        t3 := s.t3 ^^^ w
        s0 := s.s0 + w.rotateLeft (w.toNat % 32) } := by
  simp only [mixRegisters, carryOf_iff, takeOf_iff, mixedOf_eq]

/-- Settles O13: the word of the main stream, then the iteration with steps b to e in integers. -/
theorem ckLoopDefaultIteration : Obligations.CkLoopDefaultIteration := by
  intro v s hv hp hl off hwindow hlen hst
  have hread := memReadStream_of_le (off := romOffMain s.epr s.t1) hwindow hlen hst
  rw [exec_checksumOf_of_ckLoop hp hl, ckLoop_of_default hv hread, iterateDefault, mixRegisters_eq]
  rfl

/-- Settles O14: both words, the second at the pointer's old value, then the iteration with its own feed. -/
theorem ckLoopX105Iteration : Obligations.CkLoopX105Iteration := by
  intro s hp hl off off2 hwindow hlen hst hwindow2 hlen2 hst2
  have hread := memReadStream_of_le (off := romOffMain s.epr s.t1) hwindow hlen hst
  have hread2 := memReadStream_of_le (off := romOffX105 s.s6) hwindow2 hlen2 hst2
  have hexec : exec .checksumX105 s = ckLoop .x105 s := exec_checksumOf_of_ckLoop (v := .x105) hp hl
  rw [hexec, ckLoop_of_x105 hread hread2, iterateX105, mixRegisters_eq]
  rfl

/-! ### CK_FINAL -/

/-- The final step on a buffer the host left alone (R164). -/
theorem exec_checksumOf_of_ckFinal_untainted {v : Variant} {s : State} (hp : s.phase = .ckFinal)
    (hl : s.latched = some (checksumOf v)) (hm : s.tainted = false) :
    exec (checksumOf v) s = .next { s with
      result0 := combine0 v s.a3 s.t2 s.t3, result1 := combine1 v s.s0 s.a2 s.t4
      errcode := .noError, phase := .done } := by
  rw [exec_checksumOf_of_ckFinal hp hl, writeResults_untainted _ _ hm]

/-- The variants of the default combiner share its first word (R162). -/
theorem combine0_of_default {v : Variant} (hv : v = .v6101 ∨ v = .v6102_7101 ∨ v = .v7102 ∨ v = .x105)
    (a3 t2 t3 : Word) : combine0 v a3 t2 t3 = a3 ^^^ t2 ^^^ t3 := by
  rcases hv with rfl | rfl | rfl | rfl <;> rfl

/-- The variants of the default combiner share its second word (R162). -/
theorem combine1_of_default {v : Variant} (hv : v = .v6101 ∨ v = .v6102_7101 ∨ v = .v7102 ∨ v = .x105)
    (s0 a2 t4 : Word) : combine1 v s0 a2 t4 = s0 ^^^ a2 ^^^ t4 := by
  rcases hv with rfl | rfl | rfl | rfl <;> rfl

/-- Settles O15: the final step with the combiner of `X103`. -/
theorem ckFinalX103 : Obligations.CkFinalX103 :=
  fun _ hp hl hm => exec_checksumOf_of_ckFinal_untainted (v := .x103) hp hl hm

/-- Settles O16: the final step with the combiner of `X106`. -/
theorem ckFinalX106 : Obligations.CkFinalX106 :=
  fun _ hp hl hm => exec_checksumOf_of_ckFinal_untainted (v := .x106) hp hl hm

/-- Settles O17: the final step with the default combiner. -/
theorem ckFinalDefault : Obligations.CkFinalDefault := by
  intro v s hv hp hl hm
  rw [exec_checksumOf_of_ckFinal_untainted hp hl hm, combine0_of_default hv, combine1_of_default hv]

end Sys2Proof.Machine
end

section
/-! PROOFS. The reference function: a run computes it (O54), its closed forms (O56), its words on an all-zero window
(O57, O58), and the variants that share it (O60). -/

namespace Sys2Proof.Machine

/-! ### A run computes the reference function -/

/-- An accepted command on a long enough buffer ends in `DONE` with the reference's words (R164, R166). -/
theorem accepted_run_completes {v : Variant} {s : State} (hb : s.busy = false) (hs : s.script = [])
    (hlen : 0x101000 ≤ s.romLen.toNat) (hst : 0x101000 ≤ s.romStorage) :
    ∃ s1, exec (checksumOf v) s = .next s1 ∧ ∃ t, RunsTo 0x40002 s1 t ∧ t.phase = .done ∧ t.errcode = .noError ∧
      t.result0 = (refWordsFrom v s.rom (acc0 v)).1 ∧ t.result1 = (refWordsFrom v s.rom (acc0 v)).2 ∧
      t.detect = 0 := by
  obtain ⟨s1, hexec, hp, hl, hs1, hm, hlenl, hstor, hrom, -, -, hdetect, -⟩ := accept_start (v := v) hb hs
  rw [← hlenl] at hlen
  rw [← hstor] at hst
  obtain ⟨u, -, -, hf, hrun⟩ := engine_completes hp hl hs1 hlen hst
  rw [writeResults_untainted _ _ (hf.tainted.trans hm), hrom] at hrun
  exact ⟨s1, hexec, _, hrun, rfl, rfl, rfl, rfl, hf.detect.trans hdetect⟩

/-- An accepted command on a buffer that is too short ends in `ERROR` after one step, with no results (R141, R166). -/
theorem accepted_run_rejects {v : Variant} {s : State} (hb : s.busy = false) (hs : s.script = [])
    (hlen : s.romLen.toNat < 0x101000) :
    ∃ s1, exec (checksumOf v) s = .next s1 ∧ ∃ t, RunsTo 1 s1 t ∧ t.phase = .error ∧ t.errcode = .bufferTooSmall ∧
      t.result0 = 0 ∧ t.result1 = 0 := by
  obtain ⟨s1, hexec, hp, hl, hs1, hm, hlenl, -, -, h0, h1, -, -⟩ := accept_start (v := v) hb hs
  rw [← hlenl] at hlen
  have hstep := engine_rejects hp hl hs1 hlen
  rw [raiseError_untainted _ hm] at hstep
  exact ⟨s1, hexec, _, runsTo_one.2 hstep, rfl, rfl, h0, h1⟩

/-- Settles O54: the run on either side of the length check. -/
theorem runMatchesReferenceFunction : Obligations.RunMatchesReferenceFunction := by
  intro v s hb hs hst
  by_cases hlen : s.romLen.toNat < 0x101000
  · rw [refChecksum, if_pos hlen]
    exact accepted_run_rejects hb hs hlen
  · rw [refChecksum, if_neg hlen]
    exact accepted_run_completes hb hs (Nat.not_lt.1 hlen) hst

/-! ### Closed forms of the loop (R169) -/

section
variable (v : Variant) (w x : Word) (r : WorkRegs)

@[simp] theorem refIteration_a3 : (refIteration v w x r).a3 = r.a3 + w := rfl

@[simp] theorem refIteration_t2 :
    (refIteration v w x r).t2 = if 2 ^ 32 ≤ r.a3.toNat + w.toNat then r.t2 + 1 else r.t2 := by
  simp only [refIteration, add_toNat_lt_iff]

@[simp] theorem refIteration_t3 : (refIteration v w x r).t3 = r.t3 ^^^ w := rfl

@[simp] theorem refIteration_s0 : (refIteration v w x r).s0 = r.s0 + w.rotateLeft (w.toNat % 32) := by
  rw [← rotl32_eq_rotateLeft w (Nat.mod_lt _ (by decide))]
  rfl

end

/-- Wrapping a word's integer gives the word (R7). -/
theorem ofNat_toNat_word (w : Word) : BitVec.ofNat 32 w.toNat = w := by
  rw [BitVec.ofNat_toNat, BitVec.setWidth_eq]

/-- Adding a word to a wrapped integer wraps the integer sum (R7, R11). -/
theorem ofNat_add_word (k : Nat) (w : Word) : BitVec.ofNat 32 k + w = BitVec.ofNat 32 (k + w.toNat) := by
  rw [BitVec.ofNat_add, ofNat_toNat_word]

section
variable (v : Variant) (m : Memory) (acc : Word)

/-- The running sum is the integer sum, wrapped (R169). -/
theorem refLoop_a3 (n : Nat) : (refLoop v m acc n).a3 = BitVec.ofNat 32 (acc.toNat + sumOver (mainWord m) n) := by
  induction n with
  | zero => exact (ofNat_toNat_word acc).symm
  | succ n ih => rw [refLoop, refIteration_a3, ih, ofNat_add_word, sumOver, Nat.add_assoc]

/-- Every carry is one crossing of a multiple of 2^32 by the integer sum (R169). -/
theorem refLoop_t2 (n : Nat) :
    (refLoop v m acc n).t2 =
      BitVec.ofNat 32 (acc.toNat + (acc.toNat + sumOver (mainWord m) n) / 2 ^ 32) := by
  induction n with
  | zero =>
    have hzero : (acc.toNat + sumOver (mainWord m) 0) / 2 ^ 32 = 0 := Nat.div_eq_of_lt acc.isLt
    rw [hzero, Nat.add_zero, ofNat_toNat_word]
    rfl
  | succ n ih =>
    have hw := (mainWord m n).isLt
    have hone : (1 : Word).toNat = 1 := rfl
    rw [refLoop, refIteration_t2, refLoop_a3, ih, sumOver, BitVec.toNat_ofNat]
    split
    · rw [ofNat_add_word, hone]
      congr 1
      omega
    · congr 1
      omega

/-- The running XOR (R169). -/
theorem refLoop_t3 (n : Nat) : (refLoop v m acc n).t3 = acc ^^^ xorOver (mainWord m) n := by
  induction n with
  | zero => exact (BitVec.xor_zero).symm
  | succ n ih => rw [refLoop, refIteration_t3, ih, xorOver, BitVec.xor_assoc]

/-- The running sum of the rotations is the integer sum, wrapped (R169). -/
theorem refLoop_s0 (n : Nat) :
    (refLoop v m acc n).s0 =
      BitVec.ofNat 32
        (acc.toNat + sumOver (fun i => (mainWord m i).rotateLeft ((mainWord m i).toNat % 32)) n) := by
  induction n with
  | zero => exact (ofNat_toNat_word acc).symm
  | succ n ih => rw [refLoop, refIteration_s0, ih, ofNat_add_word, sumOver, Nat.add_assoc]

end

/-- Settles O56: the run holds the reference loop's registers in `CK_FINAL`, and each has its closed form. -/
theorem closedFormsAfterTheLoop : Obligations.ClosedFormsAfterTheLoop := by
  intro v s hp hl hs hlen hst
  obtain ⟨t, hrun, he, -⟩ := engine_runs hp hl hs hlen hst ckIters (Nat.le_refl _)
  have hr := he.regs
  exact ⟨t, hrun, he.phase.trans (if_pos rfl),
    (congrArg WorkRegs.a3 hr).trans (refLoop_a3 v s.rom (acc0 v) ckIters),
    (congrArg WorkRegs.t2 hr).trans (refLoop_t2 v s.rom (acc0 v) ckIters),
    (congrArg WorkRegs.t3 hr).trans (refLoop_t3 v s.rom (acc0 v) ckIters),
    (congrArg WorkRegs.s0 hr).trans (refLoop_s0 v s.rom (acc0 v) ckIters)⟩

/-! ### An all-zero window -/

/-- What an iteration on zero words feeds `t4`: the unchanged `s0`, or for `X105` nothing (R155, R156). -/
def zeroFeed (v : Variant) (acc : Word) : Word := if v = .x105 then 0 else acc

/-- On zero words an iteration changes `t4` only. -/
theorem refIteration_zero (v : Variant) (r : WorkRegs) :
    refIteration v 0 0 r = { r with t4 := r.t4 + zeroFeed v r.s0 } := by
  have hrot : rotl32 0#32 0 = 0#32 := by decide
  simp [refIteration, zeroFeed, hrot]

section
variable {v : Variant} {m : Memory} (acc : Word) (hwindow : ∀ a, 0x1000 ≤ a → a < 0x101000 → m.read a = 0)
  (hsecond : v = .x105 → ∀ a, 0x750 ≤ a → a < 0x850 → m.read a = 0)
include hwindow hsecond

/-- On an all-zero window one iteration of the reference loop is the iteration on zero words. -/
theorem refLoop_succ_of_zero {n : Nat} (hn : n < ckIters) :
    refLoop v m acc (n + 1) = refIteration v 0 0 (refLoop v m acc n) := by
  have hn : n < 0x40000 := hn
  have hmain : mainWord m n = 0 := Memory.word_of_zero fun k hk => hwindow _ (by omega) (by omega)
  rw [refLoop, hmain]
  by_cases hv : v = .x105
  · have hx : secondWord m n = 0 := Memory.word_of_zero fun k hk => hsecond hv _ (by omega) (by omega)
    rw [hx]
  · simp only [refIteration, if_neg hv]

/-- On an all-zero window five registers keep the start value, and `t4` adds the same feed in every iteration. -/
theorem refLoop_of_zero {n : Nat} (hn : n ≤ ckIters) :
    refLoop v m acc n = { WorkRegs.start acc with t4 := acc + BitVec.ofNat 32 n * zeroFeed v acc } := by
  induction n with
  | zero => simp [refLoop, WorkRegs.start]
  | succ n ih =>
    have hfeed : acc + BitVec.ofNat 32 n * zeroFeed v acc + zeroFeed v acc =
        acc + BitVec.ofNat 32 (n + 1) * zeroFeed v acc := by
      rw [BitVec.add_assoc, BitVec.ofNat_add, BitVec.add_mul, BitVec.one_mul]
    rw [refLoop_succ_of_zero acc hwindow hsecond (by omega), ih (by omega), refIteration_zero, ← hfeed]
    rfl

/-- The reference words of an all-zero window (95_test_vectors.md, 3.7). -/
theorem refWordsFrom_of_zero :
    refWordsFrom v m acc =
      (combine0 v acc acc acc, combine1 v acc acc (acc + 0x40000 * zeroFeed v acc)) := by
  rw [refWordsFrom, refLoop_of_zero acc hwindow hsecond (Nat.le_refl _)]
  rfl

end

/-- The start value of `6102_7101`, from the source's seed and magic (R143, R171). -/
theorem acc0_6102 : acc0 .v6102_7101 = 0xF8CA4DDC := by decide

/-- Settles O57: the run ends with the reference words, here those of an all-zero window (V-G1). -/
theorem goldenVectorOf6102 : Obligations.GoldenVectorOf6102 := by
  intro s hb hs hlen hst hwindow
  obtain ⟨s1, hexec, t, hrun, hp, -, h0, h1, -⟩ := accepted_run_completes (v := .v6102_7101) hb hs hlen hst
  have hwords : refWordsFrom .v6102_7101 s.rom (acc0 .v6102_7101) = (0xF8CA4DDC, 0x303A4DDC) := by
    rw [acc0_6102, refWordsFrom_of_zero _ hwindow (fun hv => by cases hv)]
    decide
  rw [hwords] at h0 h1
  exact ⟨s1, t, hexec, hrun, hp, h0, h1⟩

/-- Settles O58: each row is the closed form of an all-zero window at its start value. -/
theorem goldenVectorsOfCandidates : Obligations.GoldenVectorsOfCandidates := by
  intro m hwindow
  have hdefault : ∀ (v : Variant) (acc : Word), v ≠ .x105 → refWordsFrom v m acc =
      (combine0 v acc acc acc, combine1 v acc acc (acc + 0x40000 * zeroFeed v acc)) :=
    fun v acc hv => refWordsFrom_of_zero acc hwindow fun h => absurd h hv
  refine ⟨?_, ?_, ?_, ?_, fun hsecond => ?_⟩
  · rw [hdefault .v6101 _ (by decide)]; decide
  · rw [hdefault .v7102 _ (by decide)]; decide
  · rw [hdefault .x103 _ (by decide)]; decide
  · rw [hdefault .x106 _ (by decide)]; decide
  · rw [refWordsFrom_of_zero _ hwindow fun _ => hsecond]; decide

/-! ### Variants that share the function (R176) -/

/-- The loop of the variants with the default feed is one loop (R155). -/
theorem refLoop_eq_of_default {u v : Variant} (hu : u ≠ .x105) (hv : v ≠ .x105) (m : Memory) (acc : Word) (n : Nat) :
    refLoop u m acc n = refLoop v m acc n := by
  induction n with
  | zero => rfl
  | succ n ih => rw [refLoop, refLoop, ih]; simp only [refIteration, if_neg hu, if_neg hv]

/-- The two words of a variant with the default feed and combiner, from the loop of `6101` (R155, R162). -/
theorem refWordsFrom_of_default {v : Variant} (hv : v = .v6101 ∨ v = .v6102_7101 ∨ v = .v7102) (m : Memory)
    (acc : Word) : refWordsFrom v m acc = refWordsFrom .v6101 m acc := by
  have hfeed : v ≠ .x105 := by rcases hv with rfl | rfl | rfl <;> decide
  have hcomb : v = .v6101 ∨ v = .v6102_7101 ∨ v = .v7102 ∨ v = .x105 := by tauto
  rw [refWordsFrom, refWordsFrom, refLoop_eq_of_default hfeed (v := .v6101) (by decide), combine0_of_default hcomb,
    combine1_of_default hcomb]
  rfl

/-- Settles O60: each of the three has the words of `6101`. -/
theorem defaultVariantsAgree : Obligations.DefaultVariantsAgree := by
  intro u v m acc hu hv
  rw [refWordsFrom_of_default hu, refWordsFrom_of_default hv]

end Sys2Proof.Machine
end

section
/-! PROOFS. The detector's search over an expected-hash column (O23, O24). -/

namespace Sys2Proof.Machine

/-- In a list whose keys rise, the search answers the matching element of the least key. -/
theorem find?_eq_some_iff_of_rising {α : Type} {key : α → Nat} {p : α → Bool} {l : List α}
    (hl : l.Pairwise fun u v => key u < key v) {v : α} :
    l.find? p = some v ↔ v ∈ l ∧ p v = true ∧ ∀ u ∈ l, key u < key v → p u = false := by
  induction l with
  | nil => simp
  | cons x l ih =>
    obtain ⟨hx, hl⟩ := List.pairwise_cons.1 hl
    cases hp : p x with
    | true =>
      rw [List.find?_cons_of_pos hp, Option.some_inj]
      constructor
      · rintro rfl
        refine ⟨List.mem_cons_self, hp, fun u hu hlt => ?_⟩
        rcases List.mem_cons.1 hu with rfl | hu
        · exact absurd hlt (Nat.lt_irrefl _)
        · exact absurd (hx u hu) (Nat.lt_asymm hlt)
      · rintro ⟨hv, -, hleast⟩
        rcases List.mem_cons.1 hv with rfl | hv
        · rfl
        · exact absurd hp (by simp [hleast x List.mem_cons_self (hx v hv)])
    | false =>
      rw [List.find?_cons_of_neg (by simp [hp]), ih hl]
      constructor
      · rintro ⟨hv, hpv, hleast⟩
        exact ⟨List.mem_cons_of_mem x hv, hpv, List.forall_mem_cons.2 ⟨fun _ => hp, hleast⟩⟩
      · rintro ⟨hv, hpv, hleast⟩
        rcases List.mem_cons.1 hv with rfl | hv
        · exact absurd hpv (by simp [hp])
        · exact ⟨hv, hpv, (List.forall_mem_cons.1 hleast).2⟩

/-- The search goes through every variant (R203). -/
@[simp] theorem mem_variantsInOrder (v : Variant) : v ∈ variantsInOrder := by
  cases v <;> decide

/-- The search goes in the order of the codes (R106, R203). -/
theorem variantsInOrder_rising :
    variantsInOrder.Pairwise fun u v => (variantCode u).toNat < (variantCode v).toNat := by decide

/-- The search answers the matching variant of the lowest code (R203). -/
theorem firstMatch_eq_some {expected : Variant → Digest} {h : Digest} {v : Variant} :
    firstMatch expected h = some v ↔
      expected v = h ∧ ∀ u, (variantCode u).toNat < (variantCode v).toNat → expected u ≠ h := by
  rw [firstMatch, find?_eq_some_iff_of_rising variantsInOrder_rising]
  simp

/-- The search answers none exactly when no variant matches (R203). -/
theorem firstMatch_eq_none {expected : Variant → Digest} {h : Digest} :
    firstMatch expected h = none ↔ ∀ v, expected v ≠ h := by
  simp [firstMatch]

/-- Settles O23: the search in a list whose codes rise. -/
theorem firstMatchIsLowestCode : Obligations.FirstMatchIsLowestCode :=
  fun _ _ => ⟨fun _ => firstMatch_eq_some, firstMatch_eq_none⟩

/-- Settles O24: with distinct hashes no lower code can have the same one. -/
theorem distinctHashesRoundTrip : Obligations.DistinctHashesRoundTrip := by
  intro expected
  refine ⟨fun hinj v => firstMatch_eq_some.2 ⟨rfl, fun u hlt heq => ?_⟩, fun _ => firstMatch_eq_none.2⟩
  rw [hinj u v heq] at hlt
  exact Nat.lt_irrefl _ hlt

end Sys2Proof.Machine
end

section
/-! PROOFS. The step of a detection and of `RESOLVE_ALIAS` as its exact next state (O20 to O22, O25, O26), and what
the detector's commands leave of the engine's registers (O49). -/

namespace Sys2Proof.Machine

/-! ### A detection -/

/-- In `DET_HASH` a latched detection makes its one step (R34). -/
theorem exec_of_detHash {i : Instr} {minLen off : Word} (hi : advanceOf i = detectStep minLen off) {s : State}
    (hp : s.phase = .detHash) (hl : s.latched = some i) : exec i s = detHash minLen off s := by
  rw [exec_of_latched (by rw [State.busy, hp]; rfl) hl, hi, detectStep_of_detHash _ _ hp]

/-- In `DET_HASH` the latched `DETECT_IPL3` checks and hashes the blob at the start of the buffer (R200). -/
theorem exec_detectIpl3_of_detHash {s : State} (hp : s.phase = .detHash) (hl : s.latched = some .detectIpl3) :
    exec .detectIpl3 s = detHash detIpl3MinLen 0 s :=
  exec_of_detHash rfl hp hl

/-- In `DET_HASH` the latched `DETECT_ROM` checks the buffer and hashes the blob at byte 0x40 (R210). -/
theorem exec_detectRom_of_detHash {s : State} (hp : s.phase = .detHash) (hl : s.latched = some .detectRom) :
    exec .detectRom s = detHash detRomMinLen ipl3Off s :=
  exec_of_detHash rfl hp hl

/-- The length check comes before any read (R200, R210). -/
theorem detHash_of_short {minLen off : Word} {s : State} (h : s.lenl.toNat < minLen.toNat) :
    detHash minLen off s = .next (raiseError .bufferTooSmall s) :=
  if_pos h

/-- What a detection finds in contents that hold the blob at an offset (R201, R211). -/
def blobMatch (m : Memory) (a : Nat) : Option Variant :=
  firstMatch Config.expectedHashOf (Config.hash128 (m.bytes a ipl3HashLen))

/-- Equal blobs have equal matches, wherever they stand (R213). -/
theorem blobMatch_congr {m n : Memory} {a b : Nat} (h : ∀ k < ipl3HashLen, m.read (a + k) = n.read (b + k)) :
    blobMatch m a = blobMatch n b := by
  rw [blobMatch, blobMatch, Memory.bytes_congr h]

/-- A buffer that passes the length check and holds the blob is hashed and matched (R201, R202). -/
theorem detHash_of_long {minLen off : Word} {s : State} (hlen : minLen.toNat ≤ s.lenl.toNat)
    (hin : off.toNat + ipl3HashLen ≤ minLen.toNat) (hst : off.toNat + ipl3HashLen ≤ s.romStorage) :
    detHash minLen off s = .next (writeDetect (blobMatch s.rom off.toNat) s) := by
  have hread : memReadBytes off ipl3HashLen s = .next (s.rom.bytes off.toNat ipl3HashLen) :=
    memReadBytes_eq_next.2 ⟨hin.trans hlen, hst, rfl⟩
  rw [detHash, if_neg (show ¬ s.lenl < minLen from Nat.not_lt.2 hlen), hread, andThen_next, blobMatch]

/-- `DETECT_IPL3` on a long enough buffer matches bytes 0 to 0xFBF (R201, R202). -/
theorem exec_detectIpl3_of_long {s : State} (hp : s.phase = .detHash) (hl : s.latched = some .detectIpl3)
    (hlen : 0xFC0 ≤ s.lenl.toNat) (hst : 0xFC0 ≤ s.romStorage) :
    exec .detectIpl3 s = .next (writeDetect (blobMatch s.rom 0) s) := by
  rw [exec_detectIpl3_of_detHash hp hl]
  exact detHash_of_long hlen (by decide) hst

/-- `DETECT_ROM` on a long enough buffer matches bytes 0x40 to 0xFFF (R211, R212). -/
theorem exec_detectRom_of_long {s : State} (hp : s.phase = .detHash) (hl : s.latched = some .detectRom)
    (hlen : 0x1000 ≤ s.lenl.toNat) (hst : 0x1000 ≤ s.romStorage) :
    exec .detectRom s = .next (writeDetect (blobMatch s.rom 0x40) s) := by
  rw [exec_detectRom_of_detHash hp hl]
  exact detHash_of_long hlen (by decide) hst

/-- Settles O20: the match of the blob at the start of the buffer. -/
theorem detectIpl3Completes : Obligations.DetectIpl3Completes := by
  intro s hp hl hm hlen hst h
  have hmatch : blobMatch s.rom 0 = firstMatch Config.expectedHashOf h := by
    simp only [blobMatch, Memory.bytes, Nat.zero_add, ipl3HashLen, h]
  rw [exec_detectIpl3_of_long hp hl hlen hst, writeDetect_untainted _ hm, hmatch]
  rfl

/-- Settles O21: the match of the blob at byte 0x40. -/
theorem detectRomCompletes : Obligations.DetectRomCompletes := by
  intro s hp hl hm hlen hst h
  rw [exec_detectRom_of_long hp hl hlen hst, writeDetect_untainted _ hm]
  rfl

/-- Settles O22: each form has its own least length. -/
theorem shortBlobRaises : Obligations.ShortBlobRaises := by
  intro s hp hm
  constructor
  · intro hl hlen
    rw [exec_detectIpl3_of_detHash hp hl, detHash_of_short hlen, raiseError_untainted _ hm]
  · intro hl hlen
    rw [exec_detectRom_of_detHash hp hl, detHash_of_short hlen, raiseError_untainted _ hm]

/-- Settles O25: both steps match the same blob. -/
theorem detectRomIsDetectIpl3OfTheBlob : Obligations.DetectRomIsDetectIpl3OfTheBlob := by
  intro s b hps hls hms hlens hsts hpb hlb hmb hlenb hstb hblob
  have hmatch : blobMatch s.rom 0x40 = blobMatch b.rom 0 :=
    blobMatch_congr fun k hk => by rw [Nat.zero_add, hblob k hk]
  refine ⟨_, _, exec_detectRom_of_long hps hls hlens hsts,
    exec_detectIpl3_of_long hpb hlb (by rw [hlenb]; decide) hstb, ?_, rfl, rfl⟩
  rw [writeDetect_untainted _ hms, writeDetect_untainted _ hmb, hmatch]

/-! ### `RESOLVE_ALIAS` -/

/-- In `AL_MAP` the latched `RESOLVE_ALIAS` maps the number (R220). -/
theorem exec_resolveAlias_of_alMap {s : State} (hp : s.phase = .alMap) (hl : s.latched = some .resolveAlias) :
    exec .resolveAlias s = alMap s := by
  rw [exec_of_latched (by rw [State.busy, hp]; rfl) hl, advanceOf, resolveStep_of_alMap hp]

theorem alMap_of_some {s : State} {v : Variant} (h : aliasOf s.aliasReg = some v) :
    alMap s = .next (writeDetect (some v) s) := by
  rw [alMap, h]

theorem alMap_of_none {s : State} (h : aliasOf s.aliasReg = none) :
    alMap s = .next (raiseError .unrecognizedVariant s) := by
  rw [alMap, h]

/-- Each of the ten numbers names the variant of its row's code (R110, R114). -/
theorem aliasOf_of_mem_cicTable {p : Nat × Nat} (hp : p ∈ cicTable) :
    ∃ v, aliasOf (BitVec.ofNat 32 p.1) = some v ∧ (variantCode v).toNat = p.2 := by
  have hrows : ∀ p ∈ cicTable, (aliasOf (BitVec.ofNat 32 p.1)).map (fun v => (variantCode v).toNat) = some p.2 := by
    decide
  exact Option.map_eq_some_iff.1 (hrows p hp)

/-- A number outside the table names no variant (R115). -/
theorem aliasOf_of_not_mem_cicTable {n : Word} (h : ∀ p ∈ cicTable, n ≠ BitVec.ofNat 32 p.1) :
    aliasOf n = none := by
  simp only [cicTable, List.forall_mem_cons] at h
  simp [aliasOf, h]

/-- `MATCH` and the code, as a number (R42). -/
theorem detectWord_some (v : Variant) : detectWord (some v) = BitVec.ofNat 32 (0x100 + (variantCode v).toNat) := by
  cases v <;> rfl

/-- Settles O26: the table's ten numbers, then every other. -/
theorem resolveAliasCompletes : Obligations.ResolveAliasCompletes := by
  intro s hp hl hm
  rw [exec_resolveAlias_of_alMap hp hl]
  constructor
  · intro p hmem hn
    obtain ⟨v, hv, hcode⟩ := aliasOf_of_mem_cicTable hmem
    rw [← hn] at hv
    rw [alMap_of_some hv, writeDetect_untainted _ hm, detectWord_some, hcode]
  · intro hn
    rw [alMap_of_none (aliasOf_of_not_mem_cicTable hn), raiseError_untainted _ hm]

/-! ### The engine's registers -/

/-- The engine's registers and the latched variant are as before (R222). -/
structure EngineKept (s t : State) : Prop where
  workRegs : t.workRegs = s.workRegs
  ep : t.ep = s.ep
  epr : t.epr = s.epr
  t0 : t.t0 = s.t0
  t1 : t.t1 = s.t1
  s6 : t.s6 = s.s6
  vl : t.vl = s.vl

/-- What the last step of a run keeps where it writes no result words: the engine's registers, the latched length and
operation, and on a buffer left alone the result words (R222, R290). -/
structure DetectorStepFrame (s t : State) : Prop extends EngineKept s t where
  lenl : t.lenl = s.lenl
  opl : t.opl = s.opl
  results : s.tainted = false → t.result0 = s.result0 ∧ t.result1 = s.result1

theorem DetectorStepFrame.refl (s : State) : DetectorStepFrame s s :=
  ⟨⟨rfl, rfl, rfl, rfl, rfl, rfl, rfl⟩, rfl, rfl, fun _ => ⟨rfl, rfl⟩⟩

theorem detectorStepFrame_raiseError (e : ErrCode) (s : State) : DetectorStepFrame s (raiseError e s) :=
  ⟨⟨rfl, rfl, rfl, rfl, rfl, rfl, rfl⟩, rfl, rfl, fun hm => by simp [hm]⟩

theorem detectorStepFrame_writeDetect (m : Option Variant) (s : State) : DetectorStepFrame s (writeDetect m s) :=
  ⟨⟨rfl, rfl, rfl, rfl, rfl, rfl, rfl⟩, rfl, rfl, fun hm => by simp [hm]⟩

theorem detectorStepFrame_detectStep {minLen off : Word} {s t : State} (h : detectStep minLen off s = .next t) :
    DetectorStepFrame s t := by
  obtain ⟨-, ⟨-, rfl⟩ | ⟨-, rfl⟩⟩ := detectStep_cases h
  · exact detectorStepFrame_raiseError _ s
  · exact detectorStepFrame_writeDetect _ s

theorem detectorStepFrame_resolveStep {s t : State} (h : resolveStep s = .next t) : DetectorStepFrame s t := by
  obtain ⟨-, ⟨-, rfl⟩ | ⟨v, -, rfl⟩⟩ := resolveStep_cases h
  · exact detectorStepFrame_raiseError _ s
  · exact detectorStepFrame_writeDetect _ s

section
variable {i : Instr} {s t : State} (hi : i = .detectIpl3 ∨ i = .detectRom ∨ i = .resolveAlias)
include hi

theorem detectorStepFrame_advanceOf (h : advanceOf i s = .next t) : DetectorStepFrame s t := by
  rcases hi with rfl | rfl | rfl
  · exact detectorStepFrame_detectStep h
  · exact detectorStepFrame_detectStep h
  · exact detectorStepFrame_resolveStep h

/-- Acceptance of a detector command latches neither a variant nor a register of the engine (R240). -/
theorem engineKept_latchOf (s : State) : EngineKept s (latchOf i (beginCommand s)) := by
  rcases hi with rfl | rfl | rfl <;> exact ⟨rfl, rfl, rfl, rfl, rfl, rfl, rfl⟩

/-- With a run in progress a detector command makes that run's step or is turned away. -/
theorem detectorStepFrame_exec (hb : s.busy = true) (h : exec i s = .next t) : DetectorStepFrame s t := by
  rcases exec_cases h with ⟨hquiet, -⟩ | ⟨-, -, hstep⟩ | ⟨-, -, rfl⟩
  · rw [hb] at hquiet; cases hquiet
  · exact detectorStepFrame_advanceOf hi hstep
  · exact DetectorStepFrame.refl _

theorem engineKept_exec (h : exec i s = .next t) : EngineKept s t := by
  cases hb : s.busy with
  | true => exact (detectorStepFrame_exec hi hb h).toEngineKept
  | false =>
    rw [exec_of_quiescent hb] at h
    cases h
    exact engineKept_latchOf hi s

end

/-- Settles O49: acceptance keeps the engine's registers, a run's step keeps the latched length and operation too. -/
theorem detectorFrame : Obligations.DetectorFrame := by
  intro i s t hi h
  have hk := engineKept_exec hi h
  have hf (hb : s.busy = true) := detectorStepFrame_exec hi hb h
  exact ⟨hk.workRegs, hk.ep, hk.epr, hk.t0, hk.t1, hk.s6, hk.vl,
    fun hb => ⟨(hf hb).lenl, (hf hb).opl⟩, fun hb => (hf hb).results⟩

end Sys2Proof.Machine
end

section
/-! PROOFS. Acceptance and errors: what a word written to `CMD` does, what leaves `ERROR`, a block with no run in progress
(O3, O5, O6, O7, O8, O9, O53). -/

namespace Sys2Proof.Machine

/-! ### A word written to `CMD` -/

/-- While `BUSY` a write of `CMD` is ignored (R240). -/
theorem writeCmd_of_busy {s : State} (hb : s.busy = true) (c : Word) : writeCmd c s = .next s := by
  rw [writeCmd, if_pos hb]

/-- What a word with a given decoding leaves when no run is in progress (R240). -/
def afterCmdWord : Decoded → State → State
  | .legal i, s => latchOf i (beginCommand s)
  | .illegalCommand, s => raiseError .illegalCommand (beginCommand s)
  | .unrecognizedVariant, s => raiseError .unrecognizedVariant (beginCommand s)

/-- With no run in progress a write of `CMD` goes through for every word (R240). -/
theorem writeCmd_of_quiescent {s : State} (hb : s.busy = false) (c : Word) :
    writeCmd c s = .next (afterCmdWord (decode c) s) := by
  rw [writeCmd, hb, if_neg (by simp)]
  cases decode c with
  | legal i => exact exec_of_quiescent hb
  | illegalCommand => rfl
  | unrecognizedVariant => rfl

/-- With no run in progress the word of a command is that command. -/
theorem writeCmd_of_legal {s : State} {c : Word} {i : Instr} (hb : s.busy = false) (hd : decode c = .legal i) :
    writeCmd c s = exec i s := by
  rw [writeCmd_of_quiescent hb, hd, exec_of_quiescent hb]
  rfl

/-- Settles O7: the word's decoding decides which state acceptance leaves. -/
theorem acceptanceOfAWord : Obligations.AcceptanceOfAWord := by
  intro c s
  refine ⟨fun hb => writeCmd_of_busy hb c, fun hb => ⟨_, writeCmd_of_quiescent hb c, ?_⟩⟩
  refine ⟨fun hd => ?_, fun hd => ?_, fun v hd => ?_, fun hd => ?_, fun hd => ?_, fun hd => ?_⟩
  · rw [hd]; rfl
  · rw [hd]; rfl
  · rw [hd, afterCmdWord, latchOf_checksumOf]; rfl
  · rw [hd]; rfl
  · rw [hd]; rfl
  · rw [hd]; rfl

/-- Settles O8: with no run in progress the command is its acceptance. -/
theorem checksumIsAccepted : Obligations.ChecksumIsAccepted := by
  intro v s hb
  rw [exec_of_quiescent hb, latchOf_checksumOf]
  rfl

/-- Settles O9: with no run in progress each of the three commands is its acceptance. -/
theorem detectorIsAccepted : Obligations.DetectorIsAccepted :=
  fun _ hb => ⟨exec_of_quiescent hb, exec_of_quiescent hb, exec_of_quiescent hb⟩

/-! ### The host's turn that writes `CMD` -/

/-- A write at offset 0 is a write of `CMD` (R36, R37). -/
theorem hostWrite_cmd (c : Word) (s : State) : hostWrite 0x00 .w32 c s = writeCmd c s := by
  rw [hostWrite, accessCheck_of_aligned rfl, andThen_next, if_pos rfl]

/-- `CMD` stands at `CKBASE` (R36). -/
theorem busAddress_cmd : busAddress 0x00 = Config.ckbase := BitVec.add_zero _

/-- The turn that writes `CMD`, at its offset or at its bus address, is that write after the turn is taken (R37). -/
theorem step_of_cmd_turn {s : State} {c : Word} {rest : List HostAction}
    (hs : s.script = .write 0x00 .w32 c :: rest ∨ s.script = .busWrite Config.ckbase .w32 c :: rest) :
    step s = writeCmd c { s with script := rest } := by
  rcases hs with hs | hs
  · rw [step_of_cons hs]
    exact hostWrite_cmd c _
  · rw [step_of_cons hs, hostTurn, busWrite, ← busAddress_cmd, busAccess_busAddress]
    exact hostWrite_cmd c _

/-- Settles O3: the turn is a write of `CMD`, which for a command's word is the command. -/
theorem acceptedWordRuns : Obligations.AcceptedWordRuns := by
  intro s c rest hs
  have hstep := step_of_cmd_turn hs
  exact ⟨hstep, fun i hb hd => hstep.trans (writeCmd_of_legal hb hd)⟩

/-- A 32-bit word is its own number modulo 2^32. -/
theorem ofNat_toNat_mod_word (c : Word) : BitVec.ofNat 32 (c.toNat % 2 ^ 32) = c := by
  rw [Nat.mod_eq_of_lt c.isLt, ofNat_toNat_word]

/-- With no run in progress placing a command word only adds its write to the host's turns (log entry 16). -/
theorem withFetchWord_of_quiescent {s : State} (hb : s.busy = false) (c : Word) :
    s.withFetchWord 32 c.toNat = { s with script := .write 0x00 .w32 c :: s.script } := by
  rw [State.withFetchWord, placeCommand, hb, ofNat_toNat_mod_word]
  rfl

/-- Settles O6: the placed word is the host's next write of `CMD`. -/
theorem placedCommandRuns : Obligations.PlacedCommandRuns := by
  intro s c i hb hd
  constructor
  · rw [withFetchWord_of_quiescent hb, step_of_cmd_turn (.inl rfl)]
    exact writeCmd_of_legal hb hd
  · rw [decodeTableWord, ofNat_toNat_mod_word, hd]

/-! ### A block with no run in progress -/

/-- Settles O5: with no run in progress the block's turn changes nothing, and the wait loop and a read end with what they
read. -/
theorem quiescentBlockWaits : Obligations.QuiescentBlockWaits := by
  intro s hp
  have hb : s.busy = false := Phase.not_isBusy_iff.2 hp
  refine ⟨fun hs => ?_, fun rest hs => ?_, fun rest hs => ?_, fun off rest hs ha => ?_⟩
  · rw [step_of_nil hs, blockTurn_of_quiescent hb]
  · rw [step_of_cons hs]
    exact blockTurn_of_quiescent hb
  · exact step_of_wait_quiescent hs hb
  · rw [step_of_cons hs]
    exact hostRead_of_aligned ha _

/-- A write of `CMD` in `ERROR` leads to another phase only where the word is a command's (R240, R250). -/
theorem legal_of_writeCmd_leaves_error {c : Word} {s t : State} (h : writeCmd c s = .next t)
    (hp : s.phase = .error) (ht : t.phase ≠ .error) : ∃ i, decode c = .legal i := by
  rcases writeCmd_cases h with ⟨-, rfl⟩ | ⟨-, i, hd, -⟩ | ⟨-, -, rfl⟩ | ⟨-, -, rfl⟩
  · exact absurd hp ht
  · exact ⟨i, hd⟩
  · exact absurd rfl ht
  · exact absurd rfl ht

/-- Settles O53: of the four turns the block's and the host's others keep `ERROR`, and a write of `CMD` keeps it for a
word that is no command's. -/
theorem errorIsLeftByCommandOrReset : Obligations.ErrorIsLeftByCommandOrReset := by
  intro s t hp hstep ht
  cases step_turn hstep with
  | block rest d _ h =>
    have hb : State.busy { s with script := rest, rdata := d } = false := Phase.not_isBusy_iff.2 (.inr (.inr hp))
    rw [blockTurn_of_quiescent hb] at h
    cases h
    exact absurd hp ht
  | command c rest hs h =>
    obtain ⟨i, hd⟩ := legal_of_writeCmd_leaves_error h hp ht
    obtain ⟨rest', hs | hs⟩ := hs
    · exact .inl ⟨c, i, rest', hs, hd⟩
    · exact .inr (.inl ⟨c, i, rest', hs, hd⟩)
  | reset rest hs _ => exact .inr (.inr ⟨rest, hs⟩)
  | other h => exact absurd (h.phase.trans hp) ht

end Sys2Proof.Machine
end

section
/-! PROOFS. The host's patch of the buffer (O37). -/

namespace Sys2Proof.Machine

section
variable {m : Memory} (hm : m.wf) (w0 w1 : Word)
include hm

/-- The patch puts `word0` at 0x10, and its second write stays clear of it (R262). -/
theorem Memory.word0_patch : (m.patch w0 w1).word 0x10 = w0 := by
  have hclear : (m.patch w0 w1).word 0x10 = (m.writeWord 0x10 w0).word 0x10 :=
    Memory.word_congr fun k hk => by
      rw [Memory.patch, Memory.read_writeWord (Memory.wf_writeWord hm _ _), if_neg (by omega)]
  rw [hclear, Memory.word_writeWord hm]

/-- The patch puts `word1` at 0x14 (R262). -/
theorem Memory.word1_patch : (m.patch w0 w1).word 0x14 = w1 :=
  Memory.word_writeWord (Memory.wf_writeWord hm _ _) _ _

/-- The patch leaves every byte outside 0x10 to 0x17 alone (R262). -/
theorem Memory.read_patch_other {a : Nat} (ha : a < 0x10 ∨ 0x18 ≤ a) : (m.patch w0 w1).read a = m.read a := by
  rw [Memory.read_patch hm, if_neg (by omega), if_neg (by omega)]

/-- Patching twice with the same words is patching once (R262). -/
theorem Memory.patch_patch : (m.patch w0 w1).patch w0 w1 = m.patch w0 w1 := by
  have hp : (m.patch w0 w1).wf := Memory.wf_patch hm w0 w1
  refine Memory.ext_of_read (Memory.wf_patch hp w0 w1) hp fun a => ?_
  rw [Memory.read_patch hp, Memory.read_patch hm]
  split
  · rfl
  · split <;> rfl

/-- The patched bytes stand in neither window of the checksum (R262, R81). -/
theorem refChecksum_patch (len : Word) (v : Variant) :
    refChecksum (m.patch w0 w1) len v = refChecksum m len v := by
  have hsame (a : Nat) (ha : 0x18 ≤ a) : (m.patch w0 w1).read a = m.read a :=
    Memory.read_patch_other hm w0 w1 (.inr ha)
  rw [refChecksum, refChecksum,
    refWords_congr (acc0 v) (fun a ha _ => hsame a (by omega)) fun _ a ha _ => hsame a (by omega)]

end

/-- Settles O37: the two words, the frame, and from them idempotence and the unchanged checksum. -/
theorem patchIsIdempotentAndHarmless : Obligations.PatchIsIdempotentAndHarmless :=
  fun _ w0 w1 hm =>
    ⟨Memory.word0_patch hm w0 w1, Memory.word1_patch hm w0 w1, fun _ ha => Memory.read_patch_other hm w0 w1 ha,
      Memory.patch_patch hm w0 w1, fun v len => refChecksum_patch hm w0 w1 len v⟩

end Sys2Proof.Machine
end

section
/-! PROOFS. How many steps a run takes: an upper bound from every state of the invariant (O45), the exact count of each
command (O55). -/

namespace Sys2Proof.Machine

/-! ### Every run ends -/

/-- With no host turn pending a run is over after at most its steps left, by induction on them. -/
theorem run_ends {s : State} (h : Inv s) (hp : s.phase ≠ .idle) (hs : s.script = [])
    (hst : s.lenl.toNat ≤ s.romStorage) :
    ∃ n t, n ≤ s.stepsLeft ∧ RunsTo n s t ∧ (t.phase = .done ∨ t.phase = .error) := by
  induction hk : s.stepsLeft using Nat.strongRecOn generalizing s with
  | ind k ih =>
    subst hk
    cases hb : s.busy with
    | false => exact ⟨0, s, Nat.zero_le _, runsTo_zero.2 rfl, (Phase.not_isBusy_iff.1 hb).resolve_left hp⟩
    | true =>
      obtain ⟨u, hu, hinv, hprog⟩ := blockTurn_progress h hb hst
      have hfewer := hprog.fewer
      have hconnected : u.lenl.toNat ≤ u.romStorage := by
        rw [hprog.lenl, hprog.kept.romStorage]
        exact hst
      obtain ⟨n, t, hn, hrun, hover⟩ :=
        ih u.stepsLeft hfewer hinv hprog.notIdle (hprog.kept.script.trans hs) hconnected rfl
      exact ⟨n + 1, t, by omega, runsTo_succ.2 ⟨u, (step_of_nil hs).trans hu, hrun⟩, hover⟩

/-- Settles O45: the steps left are at most 0x40002, and a run in progress is not over after none. -/
theorem everyRunEnds : Obligations.EveryRunEnds := by
  intro s h hb hs hst
  have hp : s.phase ≠ .idle := fun hp => by simp [State.busy, hp, Phase.isBusy] at hb
  obtain ⟨n, t, hn, hrun, hover⟩ := run_ends h hp hs hst
  have hpos : n ≠ 0 := by
    rintro rfl
    have hover := runsTo_zero.1 hrun ▸ hover
    rw [State.busy, Phase.not_isBusy_iff.2 (.inr hover)] at hb
    cases hb
  exact ⟨n, t, Nat.one_le_iff_ne_zero.2 hpos, hn.trans (stepsLeft_le s), hrun, hover⟩

/-! ### Exact counts (R294) -/

/-- In the loop and at its end the run is still in progress. -/
theorem EngineAt.busy {v : Variant} {m : Memory} {n : Nat} {t : State} (h : EngineAt v m n t) : t.busy = true := by
  rw [State.busy, h.phase]
  split <;> rfl

section
variable {v : Variant} {s : State} (hp : s.phase = .ckInit) (hl : s.latched = some (checksumOf v))
  (hs : s.script = []) (hlen : 0x101000 ≤ s.lenl.toNat) (hst : 0x101000 ≤ s.romStorage)
include hp hl hs hlen hst

/-- A checksum that passes its length check is busy before each of its 0x40002 steps. -/
theorem checksum_busy_before_each_step {n : Nat} (hn : n < 0x40002) : ∃ t, RunsTo n s t ∧ t.busy = true := by
  cases n with
  | zero => exact ⟨s, runsTo_zero.2 rfl, by rw [State.busy, hp]; rfl⟩
  | succ n =>
    obtain ⟨t, hrun, he, -⟩ := engine_runs hp hl hs hlen hst n (show n ≤ 0x40000 by omega)
    exact ⟨t, hrun, he.busy⟩

/-- It is in `CK_LOOP` after `CK_INIT` and before the last iteration. -/
theorem checksum_in_loop {n : Nat} (h1 : 1 ≤ n) (hn : n ≤ 0x40000) : ∃ t, RunsTo n s t ∧ t.phase = .ckLoop := by
  cases n with
  | zero => omega
  | succ n =>
    obtain ⟨t, hrun, he, -⟩ := engine_runs hp hl hs hlen hst n (show n ≤ 0x40000 by omega)
    exact ⟨t, hrun, he.phase.trans (if_neg (show n ≠ 0x40000 by omega))⟩

/-- It is in `CK_FINAL` after its iterations and in `DONE` after the last step. -/
theorem checksum_final_and_done :
    (∃ t, RunsTo 0x40001 s t ∧ t.phase = .ckFinal) ∧ ∃ t, RunsTo 0x40002 s t ∧ t.phase = .done := by
  obtain ⟨u, hu, he, -, hdone⟩ := engine_completes hp hl hs hlen hst
  exact ⟨⟨u, hu, he.phase.trans (if_pos rfl)⟩, _, hdone, rfl⟩

end

/-- With no host turn pending the step of a latched command is that command. -/
theorem step_of_latched {s : State} {i : Instr} (hb : s.busy = true) (hl : s.latched = some i) (hs : s.script = []) :
    step s = exec i s := by
  rw [step_of_nil hs, blockTurn_of_latched hb hl]

/-- A detection is over in its one step, on either side of its length check (R200 to R212). -/
theorem detHash_ends {minLen off : Word} {s : State} (hin : off.toNat + ipl3HashLen ≤ minLen.toNat)
    (hst : off.toNat + ipl3HashLen ≤ s.romStorage) :
    ∃ t, detHash minLen off s = .next t ∧ (t.phase = .done ∨ t.phase = .error) := by
  by_cases hlen : s.lenl.toNat < minLen.toNat
  · exact ⟨_, detHash_of_short hlen, .inr rfl⟩
  · exact ⟨_, detHash_of_long (Nat.not_lt.1 hlen) hin hst, .inl rfl⟩

/-- The resolver is over in its one step, for a number of the table and for any other (R221). -/
theorem alMap_ends (s : State) : ∃ t, alMap s = .next t ∧ (t.phase = .done ∨ t.phase = .error) := by
  cases h : aliasOf s.aliasReg with
  | none => exact ⟨_, alMap_of_none h, .inr rfl⟩
  | some v => exact ⟨_, alMap_of_some h, .inl rfl⟩

/-- A detection takes one step. -/
theorem detection_takes_one_step {s : State} (hp : s.phase = .detHash)
    (hl : s.latched = some .detectIpl3 ∨ s.latched = some .detectRom) (hs : s.script = [])
    (hst : 0x1000 ≤ s.romStorage) : ∃ t, RunsTo 1 s t ∧ (t.phase = .done ∨ t.phase = .error) := by
  have hb : s.busy = true := by rw [State.busy, hp]; rfl
  simp only [runsTo_one]
  rcases hl with hl | hl
  · rw [step_of_latched hb hl hs, exec_detectIpl3_of_detHash hp hl]
    exact detHash_ends (by decide) (show 0xFC0 ≤ s.romStorage by omega)
  · rw [step_of_latched hb hl hs, exec_detectRom_of_detHash hp hl]
    exact detHash_ends (by decide) hst

/-- `RESOLVE_ALIAS` takes one step. -/
theorem resolveAlias_takes_one_step {s : State} (hp : s.phase = .alMap) (hl : s.latched = some .resolveAlias)
    (hs : s.script = []) : ∃ t, RunsTo 1 s t ∧ (t.phase = .done ∨ t.phase = .error) := by
  have hb : s.busy = true := by rw [State.busy, hp]; rfl
  simp only [runsTo_one]
  rw [step_of_latched hb hl hs, exec_resolveAlias_of_alMap hp hl]
  exact alMap_ends s

/-- A word that is no command's is in `ERROR` at acceptance (R240, R294). -/
theorem writeCmd_rejects {c : Word} {s : State} (hb : s.busy = false) (hc : ∀ i, decode c ≠ .legal i) :
    ∃ t, writeCmd c s = .next t ∧ t.phase = .error := by
  refine ⟨_, writeCmd_of_quiescent hb c, ?_⟩
  cases hd : decode c with
  | legal i => exact absurd hd (hc i)
  | illegalCommand => rfl
  | unrecognizedVariant => rfl

/-- Settles O55: the engine's loop counts a checksum's steps, and every other run has one step or none. -/
theorem stepCountsAreExact : Obligations.StepCountsAreExact := by
  refine ⟨fun v s hp hl hs hst => ⟨fun hlen => ⟨?_, ?_, checksum_final_and_done hp hl hs hlen hst⟩, fun hlen => ?_⟩,
    fun _ => detection_takes_one_step, fun _ => resolveAlias_takes_one_step, fun _ _ => writeCmd_rejects⟩
  · exact fun n hn => checksum_busy_before_each_step hp hl hs hlen hst hn
  · exact fun n h1 hn => checksum_in_loop hp hl hs hlen hst h1 hn
  · exact ⟨_, runsTo_one.2 (engine_rejects hp hl hs hlen), rfl⟩

end Sys2Proof.Machine
end

section
/-! PROOFS. Reset (O38, O42) and the host's hazards during a run: ignored writes (O10), early reads (O51), a changed
buffer (O18, O19). -/

namespace Sys2Proof.Machine

/-! ### Reset -/

/-- Settles O38: the turn is `resetBlock` after the turn is taken. -/
theorem resetInputClearsHostRegisters : Obligations.ResetInputClearsHostRegisters :=
  fun _ _ hs => ⟨_, step_of_cons hs, rfl, rfl, rfl, rfl, rfl, rfl, rfl, rfl, rfl, rfl, rfl⟩

/-- Settles O42: no run is in progress, the buffer is empty and every result is 0. -/
theorem resetMeetsTheInvariant : Obligations.ResetMeetsTheInvariant :=
  .of_quiescent rfl reset_rom_wf (by simp [Memory.inside, State.reset]) (by decide) ⟨none, rfl⟩
    (fun _ => ⟨rfl, rfl, rfl⟩) (fun hp => by cases hp) (fun hp => by cases hp) (fun hp => by cases hp)

/-! ### Accesses during a run -/

/-- While `BUSY` a write of `ROM_LEN` is ignored (R40, R291). -/
theorem writeRomLen_of_busy {s : State} (hb : s.busy = true) (d : Word) : writeRomLen d s = s := by
  rw [writeRomLen, if_pos hb]

/-- While `BUSY` a write of `ALIAS` is ignored (R43, R291). -/
theorem writeAlias_of_busy {s : State} (hb : s.busy = true) (d : Word) : writeAlias d s = s := by
  rw [writeAlias, if_pos hb]

/-- While `BUSY` a write of each of the three writable registers is ignored (R291). -/
theorem hostWrite_of_busy {s : State} (hb : s.busy = true) {off : Offset} (h : off = 0x00 ∨ off = 0x0C ∨ off = 0x1C)
    (d : Word) : hostWrite off .w32 d s = .next s := by
  rcases h with rfl | rfl | rfl
  · rw [hostWrite_cmd, writeCmd_of_busy hb]
  · exact congrArg Host.Outcome.next (writeRomLen_of_busy hb d)
  · exact congrArg Host.Outcome.next (writeAlias_of_busy hb d)

/-- Settles O10: the turn is the ignored write, after the turn is taken. -/
theorem busyWritesIgnored : Obligations.BusyWritesIgnored :=
  fun s _ d rest hb hoff hs =>
    (step_of_cons hs).trans (hostWrite_of_busy (s := { s with script := rest }) hb hoff d)

/-- Settles O51: the three reads are the three result registers, which the invariant holds at 0 during a run. -/
theorem earlyReadsAreZero : Obligations.EarlyReadsAreZero :=
  fun _ h hb => h.noEarly (.inr hb)

/-! ### A buffer the host changed (R290) -/

/-- The end of a run whose buffer the host changed draws the three results. -/
theorem endRun_of_tainted {s : State} (h : s.tainted = true) :
    endRun s = { s with
      result0 := Config.freeWord s.draws, result1 := Config.freeWord (s.draws + 1)
      detect := detectWord (Config.freeDetect (s.draws + 2)), draws := s.draws + 3 } := by
  simp only [endRun, h, if_true]

/-- The end of a checksum run whose buffer the host changed. -/
theorem writeResults_of_tainted {s : State} (w0 w1 : Word) (h : s.tainted = true) :
    writeResults w0 w1 s = { s with
      result0 := Config.freeWord s.draws, result1 := Config.freeWord (s.draws + 1)
      detect := detectWord (Config.freeDetect (s.draws + 2)), draws := s.draws + 3
      errcode := .noError, phase := .done } :=
  endRun_of_tainted h

/-- Settles O18: the final step ends the run with draws, whatever the combiner gave. -/
theorem changedBufferEndsInDraws : Obligations.ChangedBufferEndsInDraws := by
  intro v s hp hl hm
  rw [exec_checksumOf_of_ckFinal hp hl, writeResults_of_tainted _ _ hm]

/-- Two states that agree in everything but the three results, the count of draws and the mark. -/
def AgreeButResults (t u : State) : Prop :=
  { t with result0 := u.result0, result1 := u.result1, detect := u.detect, draws := u.draws
           tainted := u.tainted } = u

/-- A transition that goes through on an unmarked state goes through on the marked one, and the mark changes no more of
the next state than the results, the count and itself. -/
def MarkFreesResultsOnly (f : State → Result State) : Prop :=
  ∀ s u : State, f { s with tainted := false } = .next u →
    ∃ t, f { s with tainted := true } = .next t ∧ AgreeButResults t u

theorem markFreesResultsOnly_ckInit (v : Variant) : MarkFreesResultsOnly (ckInit v) := by
  intro s u h
  unfold ckInit at h ⊢
  split at h
  · rename_i hlen
    cases h
    exact ⟨_, if_pos hlen, rfl⟩
  · rename_i hlen
    obtain ⟨e, he, hu⟩ := andThen_eq_next.1 h
    cases hu
    exact ⟨_, (if_neg hlen).trans (andThen_eq_next.2 ⟨e, he, rfl⟩), rfl⟩

theorem markFreesResultsOnly_ckLoop (v : Variant) : MarkFreesResultsOnly (ckLoop v) := by
  intro s u h
  obtain ⟨w, hw, hu⟩ := andThen_eq_next.1 h
  by_cases hv : v = .x105
  · subst hv
    rw [if_pos rfl] at hu
    obtain ⟨x, hx, hu⟩ := andThen_eq_next.1 hu
    cases hu
    exact ⟨_, ckLoop_of_x105 (s := { s with tainted := true }) hw hx, rfl⟩
  · rw [if_neg hv] at hu
    cases hu
    exact ⟨_, ckLoop_of_default (s := { s with tainted := true }) hv hw, rfl⟩

theorem markFreesResultsOnly_ckFinal (v : Variant) : MarkFreesResultsOnly (ckFinal v) := by
  intro s u h
  cases h
  exact ⟨_, rfl, rfl⟩

theorem markFreesResultsOnly_detHash (minLen off : Word) : MarkFreesResultsOnly (detHash minLen off) := by
  intro s u h
  unfold detHash at h ⊢
  split at h
  · rename_i hlen
    cases h
    exact ⟨_, if_pos hlen, rfl⟩
  · rename_i hlen
    obtain ⟨l, hl, hu⟩ := andThen_eq_next.1 h
    cases hu
    exact ⟨_, (if_neg hlen).trans (andThen_eq_next.2 ⟨l, hl, rfl⟩), rfl⟩

theorem markFreesResultsOnly_alMap : MarkFreesResultsOnly alMap := by
  intro s u h
  cases ha : aliasOf s.aliasReg with
  | none =>
    cases (alMap_of_none (s := { s with tainted := false }) ha).symm.trans h
    exact ⟨_, alMap_of_none (s := { s with tainted := true }) ha, rfl⟩
  | some v =>
    cases (alMap_of_some (s := { s with tainted := false }) ha).symm.trans h
    exact ⟨_, alMap_of_some (s := { s with tainted := true }) ha, rfl⟩

theorem markFreesResultsOnly_checksumStep (v : Variant) : MarkFreesResultsOnly (checksumStep v) := by
  intro s u
  unfold checksumStep
  cases s.phase
  case ckInit => exact markFreesResultsOnly_ckInit v s u
  case ckLoop => exact markFreesResultsOnly_ckLoop v s u
  case ckFinal => exact markFreesResultsOnly_ckFinal v s u
  all_goals exact fun h => by cases h

theorem markFreesResultsOnly_detectStep (minLen off : Word) : MarkFreesResultsOnly (detectStep minLen off) := by
  intro s u
  unfold detectStep
  cases s.phase
  case detHash => exact markFreesResultsOnly_detHash minLen off s u
  all_goals exact fun h => by cases h

theorem markFreesResultsOnly_resolveStep : MarkFreesResultsOnly resolveStep := by
  intro s u
  unfold resolveStep
  cases s.phase
  case alMap => exact markFreesResultsOnly_alMap s u
  all_goals exact fun h => by cases h

theorem markFreesResultsOnly_advanceOf (i : Instr) : MarkFreesResultsOnly (advanceOf i) := by
  rcases instr_cases i with ⟨v, rfl⟩ | rfl | rfl | rfl
  · rw [advanceOf_checksumOf]
    exact markFreesResultsOnly_checksumStep v
  · exact markFreesResultsOnly_detectStep _ _
  · exact markFreesResultsOnly_detectStep _ _
  · exact markFreesResultsOnly_resolveStep

/-- Settles O19: acceptance clears the mark, a command turned away keeps it, and no step of a run reads it before its
end. -/
theorem changedBufferFreesResultsOnly : Obligations.ChangedBufferFreesResultsOnly := by
  intro i s u h
  rcases exec_cases h with ⟨hb, rfl⟩ | ⟨hb, hl, hstep⟩ | ⟨hb, hl, rfl⟩
  · exact ⟨_, exec_of_quiescent (s := { s with tainted := true }) hb, rfl⟩
  · obtain ⟨t, ht, hagree⟩ := markFreesResultsOnly_advanceOf i s u hstep
    exact ⟨t, (exec_of_latched (s := { s with tainted := true }) hb hl).trans ht, hagree⟩
  · exact ⟨_, exec_of_other (s := { s with tainted := true }) hb hl, rfl⟩

end Sys2Proof.Machine
end
